-- ==== Sys2Proof/Word.lean ====
section
/-! DEFINITION. The word types of the block, with the widths of 00_scope.md R5 and R7: values are unsigned bit vectors. -/

namespace Sys2Proof

/-- A byte of a CRC stream, and the CRC accumulator's width (R5, R17). -/
abbrev Byte := BitVec 8

/-- A 16-bit word: a register word, a sensor command, a safety word or a result (R5, R20, R42). -/
abbrev DataWord := BitVec 16

/-- A 32-bit operation word (R38). -/
abbrev OpWord := BitVec 32

end Sys2Proof
end

