-- ==== Sys2Proof/Config.lean ====
section
/-! DEFINITION. What is fixed for the machine. No parameter of the block is configurable (R5), and no rule of the block draws
a value (R11). The seed and polynomial of R5 stand beside the CRC step in Machine/Ops.lean. -/

namespace Sys2Proof.Config

/-- The largest selector of `enc.named` (R44, R56). -/
abbrev maxNamedSelector : Nat := 10

/-- The fewest register words one safety word covers (R5, R72). -/
abbrev minSnapshotWords : Nat := 1

/-- The most register words one safety word covers (R5, R72). -/
abbrev maxSnapshotWords : Nat := 8

/-- The values of the open parameter `P_RANGE_ZERO` (92_eei_decisions.md D23). -/
inductive RangeZeroPolicy where
  /-- The host's software raises a domain-specific error. -/
  | error
  /-- The host's software goes on with the unguarded IEEE result. -/
  | unguarded
  deriving DecidableEq, Repr, Inhabited

/-- `P_RANGE_ZERO`, which the spec leaves open (R84, R119). It belongs to the software around the block: no definition of the
machine reads it, and a claim about that software holds for both values. Log entry 12. -/
opaque pRangeZero : RangeZeroPolicy

end Sys2Proof.Config
end

