-- ==== Sys2Proof/Syntax.lean ====
section
/-! DEFINITION. The operations of the block as syntax: one constructor of `Instr` for each row of the opcode table (R39). -/

namespace Sys2Proof

/-- The fourteen operations of the opcode map (R39), in its order. -/
inductive Opcode where
  | crcInit | crcByte | crcWord | crcFinal
  | safetyCheck
  | encCmd | encNamed | dataGate
  | dec15 | dec9
  | extRange | extFir | extPred
  | bslice
  deriving DecidableEq, Repr

/-- The six formats of an operation word (R38). -/
inductive Format where
  /-- No operand (R40). -/
  | N
  /-- A byte operand (R41). -/
  | B
  /-- A 16-bit data operand (R42). -/
  | D
  /-- Command fields (R43). -/
  | C
  /-- A selector (R44). -/
  | K
  /-- A slice (R45). -/
  | S
  deriving DecidableEq, Repr

/-- The causes of an illegal operation (R98). -/
inductive IllegalCause where
  /-- OPC is 0xE or 0xF. -/
  | reservedOpcode
  /-- A bit that the word's format reserves is 1. -/
  | reservedField
  /-- `enc.named` with a selector above 10. -/
  | selectorOutOfRange
  /-- `bslice` with LO > HI. -/
  | sliceReversed
  deriving DecidableEq, Repr

/-- An operation with its operands. Operands have the widths of their fields (R40 to R45); the two range conditions of R56
are `Instr.wellFormed`'s. -/
inductive Instr where
  /-- `crc.init` (R63). -/
  | crcInit
  /-- `crc.byte BYTE` (R64). -/
  | crcByte (byte : Byte)
  /-- `crc.word D` (R65). -/
  | crcWord (d : DataWord)
  /-- `crc.final` (R66). -/
  | crcFinal
  /-- `safety.check D` (R68). -/
  | safetyCheck (d : DataWord)
  /-- `enc.cmd RW, ACCESS, UPD, ADDR, ND` (R73). -/
  | encCmd (rw : BitVec 1) (access : BitVec 4) (upd : BitVec 1) (addr : BitVec 6) (nd : BitVec 4)
  /-- `enc.named SEL` (R75). -/
  | encNamed (sel : BitVec 4)
  /-- `data.gate D` (R77). -/
  | dataGate (d : DataWord)
  /-- `dec15 D` (R79). -/
  | dec15 (d : DataWord)
  /-- `dec9 D` (R81). -/
  | dec9 (d : DataWord)
  /-- `ext.range D` (R83). -/
  | extRange (d : DataWord)
  /-- `ext.fir D` (R85). -/
  | extFir (d : DataWord)
  /-- `ext.pred D` (R87). -/
  | extPred (d : DataWord)
  /-- `bslice HI, LO, D` (R89). -/
  | bslice (hi lo : BitVec 4) (d : DataWord)
  deriving DecidableEq, Repr

end Sys2Proof
end

