-- ==== Sys2Proof/WellFormed.lean ====
section
/-! DEFINITION. Which operations have legal operands (R56): every value of every field is legal but for two conditions. -/

namespace Sys2Proof

/-- The operands are ones the spec calls legal (R56): `enc.named` has a selector of 0 to 10, `bslice` has LO ≤ HI, and no
other field is restricted. -/
def Instr.wellFormed : Instr → Bool
  | .crcInit => true
  | .crcByte _ => true
  | .crcWord _ => true
  | .crcFinal => true
  | .safetyCheck _ => true
  | .encCmd _ _ _ _ _ => true
  | .encNamed sel => decide (sel.toNat ≤ Config.maxNamedSelector)
  | .dataGate _ => true
  | .dec15 _ => true
  | .dec9 _ => true
  | .extRange _ => true
  | .extFir _ => true
  | .extPred _ => true
  | .bslice hi lo _ => decide (lo.toNat ≤ hi.toNat)

end Sys2Proof
end

