-- ==== Sys2Proof/Decode.lean ====
section
/-! DEFINITION. The decoder, total on the 2^32 operation words, in the order of R53; the encoder, from the formats of R40 to
R45; and the opcode table's match and mask columns. -/

namespace Sys2Proof

/-! ## The opcode map -/

/-- The operations in the order of the opcode map (R39). -/
def Opcode.all : List Opcode :=
  [.crcInit, .crcByte, .crcWord, .crcFinal, .safetyCheck, .encCmd, .encNamed, .dataGate,
   .dec15, .dec9, .extRange, .extFir, .extPred, .bslice]

/-- The OPC column of the opcode map (R39). -/
def Opcode.code : Opcode → BitVec 4
  | .crcInit => 0x0#4
  | .crcByte => 0x1#4
  | .crcWord => 0x2#4
  | .crcFinal => 0x3#4
  | .safetyCheck => 0x4#4
  | .encCmd => 0x5#4
  | .encNamed => 0x6#4
  | .dataGate => 0x7#4
  | .dec15 => 0x8#4
  | .dec9 => 0x9#4
  | .extRange => 0xA#4
  | .extFir => 0xB#4
  | .extPred => 0xC#4
  | .bslice => 0xD#4

/-- The operation an OPC value selects; none for the two reserved values (R39, R54). -/
def Opcode.ofCode (c : BitVec 4) : Option Opcode :=
  Opcode.all.find? (fun o => o.code == c)

/-- The format column of the opcode map (R39). -/
def Opcode.format : Opcode → Format
  | .crcInit => .N
  | .crcByte => .B
  | .crcWord => .D
  | .crcFinal => .N
  | .safetyCheck => .D
  | .encCmd => .C
  | .encNamed => .K
  | .dataGate => .D
  | .dec15 => .D
  | .dec9 => .D
  | .extRange => .D
  | .extFir => .D
  | .extPred => .D
  | .bslice => .S

/-- The mnemonic column of the opcode map (R39). -/
def Opcode.mnemonic : Opcode → String
  | .crcInit => "crc.init"
  | .crcByte => "crc.byte"
  | .crcWord => "crc.word"
  | .crcFinal => "crc.final"
  | .safetyCheck => "safety.check"
  | .encCmd => "enc.cmd"
  | .encNamed => "enc.named"
  | .dataGate => "data.gate"
  | .dec15 => "dec15"
  | .dec9 => "dec9"
  | .extRange => "ext.range"
  | .extFir => "ext.fir"
  | .extPred => "ext.pred"
  | .bslice => "bslice"

/-- The operation an instruction is a form of. -/
def Instr.opcode : Instr → Opcode
  | .crcInit => .crcInit
  | .crcByte _ => .crcByte
  | .crcWord _ => .crcWord
  | .crcFinal => .crcFinal
  | .safetyCheck _ => .safetyCheck
  | .encCmd _ _ _ _ _ => .encCmd
  | .encNamed _ => .encNamed
  | .dataGate _ => .dataGate
  | .dec15 _ => .dec15
  | .dec9 _ => .dec9
  | .extRange _ => .extRange
  | .extFir _ => .extFir
  | .extPred _ => .extPred
  | .bslice _ _ _ => .bslice

/-! ## The decoder -/

/-- OPC, bits 31:28 (R38). -/
def opcField (w : OpWord) : BitVec 4 := w.extractLsb 31 28

/-- Every bit that the format marks "reserved, must be 0" is 0 (R40 to R45, R55). -/
def Format.reservedClear : Format → OpWord → Bool
  | .N, w => w.extractLsb 27 0 == 0#28
  | .B, w => w.extractLsb 27 8 == 0#20
  | .D, w => w.extractLsb 27 16 == 0#12
  | .C, w => w.extractLsb 11 0 == 0#12
  | .K, w => w.extractLsb 23 0 == 0#24
  | .S, w => w.extractLsb 19 16 == 0#4

/-- The operands of an operation word, field by field (R40 to R45). -/
def readOperands (o : Opcode) (w : OpWord) : Instr :=
  match o with
  | .crcInit => .crcInit
  | .crcByte => .crcByte (w.extractLsb 7 0)
  | .crcWord => .crcWord (w.extractLsb 15 0)
  | .crcFinal => .crcFinal
  | .safetyCheck => .safetyCheck (w.extractLsb 15 0)
  | .encCmd =>
    .encCmd (w.extractLsb 27 27) (w.extractLsb 26 23) (w.extractLsb 22 22) (w.extractLsb 21 16) (w.extractLsb 15 12)
  | .encNamed => .encNamed (w.extractLsb 27 24)
  | .dataGate => .dataGate (w.extractLsb 15 0)
  | .dec15 => .dec15 (w.extractLsb 15 0)
  | .dec9 => .dec9 (w.extractLsb 15 0)
  | .extRange => .extRange (w.extractLsb 15 0)
  | .extFir => .extFir (w.extractLsb 15 0)
  | .extPred => .extPred (w.extractLsb 15 0)
  | .bslice => .bslice (w.extractLsb 27 24) (w.extractLsb 23 20) (w.extractLsb 15 0)

/-- The third test of R53: a field value out of range (R56). -/
def Instr.rangeCause : Instr → Option IllegalCause
  | .crcInit => none
  | .crcByte _ => none
  | .crcWord _ => none
  | .crcFinal => none
  | .safetyCheck _ => none
  | .encCmd _ _ _ _ _ => none
  | .encNamed sel => if 10 < sel.toNat then some .selectorOutOfRange else none
  | .dataGate _ => none
  | .dec15 _ => none
  | .dec9 _ => none
  | .extRange _ => none
  | .extFir _ => none
  | .extPred _ => none
  | .bslice hi lo _ => if hi.toNat < lo.toNat then some .sliceReversed else none

/-- What an operation word is: a legal operation, or illegal with the first cause that applies (R53). -/
inductive Decoded where
  | legal (i : Instr)
  | illegal (c : IllegalCause)
  deriving DecidableEq, Repr

/-- The tests of R53 in order; the first that fails decides. -/
def decode (w : OpWord) : Decoded :=
  match Opcode.ofCode (opcField w) with
  | none => .illegal .reservedOpcode
  | some o =>
    if o.format.reservedClear w then
      match (readOperands o w).rangeCause with
      | none => .legal (readOperands o w)
      | some c => .illegal c
    else .illegal .reservedField

/-- The word executes as an operation (R53 test 4). -/
def legalWord (w : OpWord) : Bool :=
  match decode w with
  | .legal _ => true
  | .illegal _ => false

/-! ## The encoder -/

/-- The operation word of an instruction: the "encodes as" column of R58, which places each field where its format does
(R40 to R45) and leaves the reserved bits 0. -/
def encode : Instr → OpWord
  | .crcInit => 0x00000000#32
  | .crcByte b => 0x10000000#32 ||| b.setWidth 32
  | .crcWord d => 0x20000000#32 ||| d.setWidth 32
  | .crcFinal => 0x30000000#32
  | .safetyCheck d => 0x40000000#32 ||| d.setWidth 32
  | .encCmd rw access upd addr nd =>
    0x50000000#32 ||| rw.setWidth 32 <<< 27 ||| access.setWidth 32 <<< 23 ||| upd.setWidth 32 <<< 22
      ||| addr.setWidth 32 <<< 16 ||| nd.setWidth 32 <<< 12
  | .encNamed sel => 0x60000000#32 ||| sel.setWidth 32 <<< 24
  | .dataGate d => 0x70000000#32 ||| d.setWidth 32
  | .dec15 d => 0x80000000#32 ||| d.setWidth 32
  | .dec9 d => 0x90000000#32 ||| d.setWidth 32
  | .extRange d => 0xA0000000#32 ||| d.setWidth 32
  | .extFir d => 0xB0000000#32 ||| d.setWidth 32
  | .extPred d => 0xC0000000#32 ||| d.setWidth 32
  | .bslice hi lo d => 0xD0000000#32 ||| hi.setWidth 32 <<< 24 ||| lo.setWidth 32 <<< 20 ||| d.setWidth 32

/-! ## The opcode table's own columns -/

/-- The match column of spec/opcode_table.json. -/
def Opcode.matchBits : Opcode → OpWord
  | .crcInit => 0x00000000#32
  | .crcByte => 0x10000000#32
  | .crcWord => 0x20000000#32
  | .crcFinal => 0x30000000#32
  | .safetyCheck => 0x40000000#32
  | .encCmd => 0x50000000#32
  | .encNamed => 0x60000000#32
  | .dataGate => 0x70000000#32
  | .dec15 => 0x80000000#32
  | .dec9 => 0x90000000#32
  | .extRange => 0xA0000000#32
  | .extFir => 0xB0000000#32
  | .extPred => 0xC0000000#32
  | .bslice => 0xD0000000#32

/-- The mask column of spec/opcode_table.json. -/
def Opcode.matchMask : Opcode → OpWord
  | .crcInit => 0xFFFFFFFF#32
  | .crcByte => 0xFFFFFF00#32
  | .crcWord => 0xFFFF0000#32
  | .crcFinal => 0xFFFFFFFF#32
  | .safetyCheck => 0xFFFF0000#32
  | .encCmd => 0xF0000FFF#32
  | .encNamed => 0xF0FFFFFF#32
  | .dataGate => 0xFFFF0000#32
  | .dec15 => 0xFFFF0000#32
  | .dec9 => 0xFFFF0000#32
  | .extRange => 0xFFFF0000#32
  | .extFir => 0xFFFF0000#32
  | .extPred => 0xFFFF0000#32
  | .bslice => 0xF00F0000#32

/-! ## The host's reading of a table row -/

/-- The operation word whose bits are `w`, with every bit from `nbits` up 0. -/
def tableWord (nbits w : Nat) : OpWord := BitVec.ofNat 32 (w % 2 ^ nbits)

/-- The instruction the decoder reads from that word; none where the word is illegal (log entry 7). -/
def decodeTableWord (nbits w : Nat) : Option Instr :=
  match decode (tableWord nbits w) with
  | .legal i => some i
  | .illegal _ => none

end Sys2Proof
end

