-- ==== Sys2Proof/Machine/State.lean ====
section
/-! DEFINITION. The state of the block: the six registers of R16, and the words the host presents. -/

namespace Sys2Proof.Machine

/-- What the host can do to the block between two steps (R15, R109). -/
inductive HostEvent where
  /-- Present one operation word on the operation port (R15, R23). -/
  | op (word : OpWord)
  /-- Assert reset (R109). -/
  | reset
  deriving DecidableEq, Repr

/-- The block's whole architectural state (R16), each register at its own width, and the model's own field `port`. -/
structure State where
  /-- ACC, the running CRC remainder before the final complement (R17). -/
  acc : BitVec 8
  /-- RESULT, the output of the most recent operation that produces a value (R20). -/
  result : BitVec 16
  /-- OUTCOME, the code of the most recent `safety.check`'s outcome (R18). -/
  outcome : BitVec 3
  /-- RECOV, the recovery request (R19). -/
  recov : BitVec 1
  /-- ILL, the sticky illegal-operation flag (R21). -/
  ill : BitVec 1
  /-- ILLC, the cause of the first illegal operation since reset (R22). -/
  illc : BitVec 3
  /-- DESIGN CHOICE (log entry 1): what the host presents from here on, the next event first. It is an input, and no register
  of the spec. -/
  port : List HostEvent
  deriving DecidableEq, Repr

/-- The reset values of R28. DESIGN CHOICE (log entry 10): nothing stands on the port. -/
def State.reset : State :=
  { acc := 0xFF#8, result := 0x0000#16, outcome := 7#3, recov := 0#1, ill := 0#1, illc := 0#3, port := [] }

/-- The reasons a step stops with a fault. There is none: the step "never refuses, never gets stuck and never faults" (R10), so
the type has no constructor, nothing raises a fault, and that is exact, neither safe nor unsafe (log entry 5). -/
inductive Fault where
  deriving DecidableEq, Repr

/-- The reasons a step refuses. -/
inductive Refusal where
  /-- Raised by an arm of `exec` that gives its instruction no meaning yet; safe. No arm of this model raises it: every
  operation has its meaning (R10, log entry 5). -/
  | notModelled (mnemonic : String)
  deriving DecidableEq, Repr

/-- The six output ports as the host reads them between steps, of the registers' names and widths (R25). -/
structure Outputs where
  acc : BitVec 8
  result : BitVec 16
  outcome : BitVec 3
  recov : BitVec 1
  ill : BitVec 1
  illc : BitVec 3
  deriving DecidableEq, Repr

/-- The outcomes of a check that the source names (R18). -/
inductive ErrorOutcome where
  | ok
  | systemError
  | interfaceAccessError
  | invalidAngleError
  | crcError
  deriving DecidableEq, Repr

/-- The fields of a sensor command (R46). -/
structure Command where
  /-- Read/write flag; 1 is read (R48). -/
  rw : BitVec 1
  /-- Access class. -/
  access : BitVec 4
  /-- 0 selects the current register, 1 the update buffer. -/
  upd : BitVec 1
  /-- Sensor register address. -/
  addr : BitVec 6
  /-- Number of data words before the safety word. -/
  nd : BitVec 4
  deriving DecidableEq, Repr

/-- The fields of a safety word (R49). -/
structure SafetyWord where
  /-- "reset/watchdog indicator"; nothing in the block tests it (R69). -/
  resetWdog : BitVec 1
  /-- 1 is no system error. -/
  sysOk : BitVec 1
  /-- 1 is no interface-access error. -/
  ifOk : BitVec 1
  /-- 1 is a valid angle. -/
  angleOk : BitVec 1
  /-- "sensor-number response indicator"; nothing in the block tests it (R69). -/
  resp : BitVec 4
  /-- The CRC of the transaction. -/
  crc : BitVec 8
  deriving DecidableEq, Repr

/-- The names of the command constants (R47), in the order of their selectors. -/
inductive NamedCommand where
  | readAngle | readAngleSpeed | readAngleRevolution | readTemperature
  | readIntmode1 | readIntmode2 | readBlockCrc
  | readUpd0x00 | readUpdAngle | readUpdAngleSpeed | readUpdAngleRevolution
  deriving DecidableEq, Repr

end Sys2Proof.Machine
end

