-- ==== Sys2Proof/Machine/Ops.lean ====
section
/-! DEFINITION. The shared operations: writing a register, the CRC step, an illegal operation's effect, reset, and taking the
host's next event. The block has no memory, so there is no operation on one (R29). -/

namespace Sys2Proof.Machine

/-! ## Writing the registers (R9) -/

/-- `ACC <- v`. -/
def State.setAcc (s : State) (v : BitVec 8) : State := { s with acc := v }

/-- `RESULT <- v`. -/
def State.setResult (s : State) (v : BitVec 16) : State := { s with result := v }

/-- `OUTCOME <- v`. -/
def State.setOutcome (s : State) (v : BitVec 3) : State := { s with outcome := v }

/-- `RECOV <- v`. -/
def State.setRecov (s : State) (v : BitVec 1) : State := { s with recov := v }

/-- `ILL <- v`. -/
def State.setIll (s : State) (v : BitVec 1) : State := { s with ill := v }

/-- `ILLC <- v`. -/
def State.setIllc (s : State) (v : BitVec 3) : State := { s with illc := v }

/-- Replace what stands on the port (log entry 1). -/
def State.setPort (s : State) (p : List HostEvent) : State := { s with port := p }

/-- The end of an operation that only feeds ACC: `ACC <- v; RECOV <- 0` (R63 to R65, R19). -/
def State.finishAcc (s : State) (v : BitVec 8) : State := (s.setAcc v).setRecov 0#1

/-- The end of an operation that produces a value: `RESULT <- v; RECOV <- 0` (R19, R20). -/
def State.finishResult (s : State) (v : BitVec 16) : State := (s.setResult v).setRecov 0#1

/-- What the host reads on the output ports; reading changes nothing (R25, log entry 9). -/
def State.outputs (s : State) : Outputs :=
  { acc := s.acc, result := s.result, outcome := s.outcome, recov := s.recov, ill := s.ill, illc := s.illc }

/-! ## The CRC generator -/

/-- The seed (R5, R61). -/
def crcSeed : Byte := 0xFF#8

/-- The polynomial, its x^8 term implicit (R5, R60). -/
def crcPoly : Byte := 0x1D#8

/-- One of the eight shifts of R60: bit 7 is tested, then shifted out of the byte. -/
def crcShift (x : Byte) : Byte :=
  if x.getLsbD 7 then (x <<< 1) ^^^ crcPoly else x <<< 1

/-- `n` shifts. -/
def crcShifts : Nat → Byte → Byte
  | 0, x => x
  | n + 1, x => crcShifts n (crcShift x)

/-- `crc_step(a, b)` (R60). -/
def crcStep (a b : Byte) : Byte := crcShifts 8 (a ^^^ b)

/-- The accumulator after a byte sequence (the loop of R61). -/
def crcFold (a : Byte) (bytes : List Byte) : Byte := bytes.foldl crcStep a

/-- The byte sequence of a 16-bit word, high byte first (R30). -/
def wordBytes (d : DataWord) : List Byte := [d.extractLsb 15 8, d.extractLsb 7 0]

/-- The final complement (R61, R66). -/
def crcComplement (a : Byte) : Byte := ~~~a

/-! ## The illegal operation (R98, R99) -/

/-- The code that ILLC records for a cause (R22, R98). -/
def causeCode : IllegalCause → BitVec 3
  | .reservedOpcode => 1#3
  | .reservedField => 2#3
  | .selectorOutOfRange => 3#3
  | .sliceReversed => 4#3

/-- `raise IllegalOperation(c)` (R99): `if ILL == 0 then ILLC <- c; ILL <- 1`, and nothing else. There is no trap entry and no
return from one (R100, R101): only reset clears what this writes. -/
def raiseIllegal (c : IllegalCause) (s : State) : State :=
  (s.setIllc (if s.ill = 0#1 then causeCode c else s.illc)).setIll 1#1

/-! ## Reset and the host's events -/

/-- The reset event (R109): every register takes its value of R28, and what the host presents next is still to come. -/
def applyReset (s : State) : State := State.reset.setPort s.port

/-- The next event the host presents, and the state with that event gone from the port; none where nothing is presented
(log entry 3). -/
def takeEvent (s : State) : Option (HostEvent × State) :=
  match s.port with
  | [] => none
  | e :: rest => some (e, s.setPort rest)

/-- The host presents these words next, the first of them first (log entry 2). -/
def State.present (s : State) (ws : List OpWord) : State := s.setPort (ws.map HostEvent.op ++ s.port)

end Sys2Proof.Machine
end

