-- ==== Sys2Proof/Machine/Operands.lean ====
section
/-! DEFINITION. The operand forms: field slices, the signed fields, the sensor command's fields and named constants, and the
safety word's fields. -/

namespace Sys2Proof.Machine

/-! ## Fields of a 16-bit word -/

/-- `zext_16(d[hi:lo])` for lo ≤ hi (R6, R8, R89). -/
def slice (hi lo : Nat) (d : DataWord) : DataWord := (d.extractLsb' lo (hi - lo + 1)).setWidth 16

/-- `ext.range`'s field: mask bits 14:4, then shift right by 4 (R52, R83). -/
def rangeField (d : DataWord) : DataWord := (d &&& 0x7FF0#16) >>> 4

/-- `ext.fir`'s field: the top two bits (R52, R85). -/
def firField (d : DataWord) : DataWord := (d.extractLsb 15 14).setWidth 16

/-- `ext.pred`'s constant: 3 if bit 2 is set, else 2 (R52, R87). -/
def predConstant (d : DataWord) : DataWord := if d.getLsbD 2 then 0x0003#16 else 0x0002#16

/-- The 15-bit signed field's value, as the source computes it: mask off bit 15, then subtract 2^15 if bit 14 is set
(R50, R79). -/
def decode15 (d : DataWord) : Int :=
  let m := d &&& 0x7FFF#16
  if m.getLsbD 14 then (m.toNat : Int) - 2 ^ 15 else (m.toNat : Int)

/-- The 9-bit signed field's value: mask to the low 9 bits, then subtract 2^9 if bit 8 is set (R51, R81). -/
def decode9 (d : DataWord) : Int :=
  let m := d &&& 0x01FF#16
  if m.getLsbD 8 then (m.toNat : Int) - 2 ^ 9 else (m.toNat : Int)

/-- An integer as 16-bit two's complement (R20). -/
def signedResult (v : Int) : DataWord := BitVec.ofInt 16 v

/-! ## The sensor command (R46 to R48) -/

/-- `{RW, ACCESS, UPD, ADDR, ND}`, which is `RW<<15 | ACCESS<<11 | UPD<<10 | ADDR<<4 | ND` (R46, R73). -/
def packCommand (c : Command) : DataWord :=
  c.rw.setWidth 16 <<< 15 ||| c.access.setWidth 16 <<< 11 ||| c.upd.setWidth 16 <<< 10 ||| c.addr.setWidth 16 <<< 4
    ||| c.nd.setWidth 16

/-- The fields of a command word (R46). -/
def unpackCommand (d : DataWord) : Command :=
  { rw := d.extractLsb 15 15, access := d.extractLsb 14 11, upd := d.extractLsb 10 10, addr := d.extractLsb 9 4,
    nd := d.extractLsb 3 0 }

/-- The named commands in the order of their selectors (R47). -/
def namedAll : List NamedCommand :=
  [.readAngle, .readAngleSpeed, .readAngleRevolution, .readTemperature, .readIntmode1, .readIntmode2, .readBlockCrc,
   .readUpd0x00, .readUpdAngle, .readUpdAngleSpeed, .readUpdAngleRevolution]

/-- The SEL column of R47. -/
def namedSel : NamedCommand → BitVec 4
  | .readAngle => 0#4
  | .readAngleSpeed => 1#4
  | .readAngleRevolution => 2#4
  | .readTemperature => 3#4
  | .readIntmode1 => 4#4
  | .readIntmode2 => 5#4
  | .readBlockCrc => 6#4
  | .readUpd0x00 => 7#4
  | .readUpdAngle => 8#4
  | .readUpdAngleSpeed => 9#4
  | .readUpdAngleRevolution => 10#4

/-- The value column of R47. -/
def namedValue : NamedCommand → DataWord
  | .readAngle => 0x8021#16
  | .readAngleSpeed => 0x8031#16
  | .readAngleRevolution => 0x8041#16
  | .readTemperature => 0x8051#16
  | .readIntmode1 => 0x8061#16
  | .readIntmode2 => 0x8081#16
  | .readBlockCrc => 0x8088#16
  | .readUpd0x00 => 0x8401#16
  | .readUpdAngle => 0x8421#16
  | .readUpdAngleSpeed => 0x8431#16
  | .readUpdAngleRevolution => 0x8441#16

/-- The field columns of R47. -/
def namedFields : NamedCommand → Command
  | .readAngle => { rw := 1#1, access := 0#4, upd := 0#1, addr := 0x02#6, nd := 1#4 }
  | .readAngleSpeed => { rw := 1#1, access := 0#4, upd := 0#1, addr := 0x03#6, nd := 1#4 }
  | .readAngleRevolution => { rw := 1#1, access := 0#4, upd := 0#1, addr := 0x04#6, nd := 1#4 }
  | .readTemperature => { rw := 1#1, access := 0#4, upd := 0#1, addr := 0x05#6, nd := 1#4 }
  | .readIntmode1 => { rw := 1#1, access := 0#4, upd := 0#1, addr := 0x06#6, nd := 1#4 }
  | .readIntmode2 => { rw := 1#1, access := 0#4, upd := 0#1, addr := 0x08#6, nd := 1#4 }
  | .readBlockCrc => { rw := 1#1, access := 0#4, upd := 0#1, addr := 0x08#6, nd := 8#4 }
  | .readUpd0x00 => { rw := 1#1, access := 0#4, upd := 1#1, addr := 0x00#6, nd := 1#4 }
  | .readUpdAngle => { rw := 1#1, access := 0#4, upd := 1#1, addr := 0x02#6, nd := 1#4 }
  | .readUpdAngleSpeed => { rw := 1#1, access := 0#4, upd := 1#1, addr := 0x03#6, nd := 1#4 }
  | .readUpdAngleRevolution => { rw := 1#1, access := 0#4, upd := 1#1, addr := 0x04#6, nd := 1#4 }

/-- The named command a selector indexes; none for a selector of 11 to 15 (R44, R47). -/
def namedOfSel (sel : BitVec 4) : Option NamedCommand := namedAll.find? (fun n => namedSel n == sel)

/-! ## The safety word (R49) -/

/-- The fields of a safety word (R49). -/
def unpackSafety (d : DataWord) : SafetyWord :=
  { resetWdog := d.extractLsb 15 15, sysOk := d.extractLsb 14 14, ifOk := d.extractLsb 13 13,
    angleOk := d.extractLsb 12 12, resp := d.extractLsb 11 8, crc := d.extractLsb 7 0 }

end Sys2Proof.Machine
end

