-- ==== Sys2Proof/Machine/Flags.lean ====
section
/-! DEFINITION. The status registers' values: OUTCOME's codes, the outcome of a check, and the recovery request. -/

namespace Sys2Proof.Machine

/-- OUTCOME's code of an outcome (R18). -/
def outcomeCode : ErrorOutcome → BitVec 3
  | .ok => 0#3
  | .systemError => 1#3
  | .interfaceAccessError => 2#3
  | .invalidAngleError => 3#3
  | .crcError => 4#3

/-- NONE: no `safety.check` since reset (R18). -/
def outcomeNone : BitVec 3 := 7#3

/-- The outcome of checking a safety word's fields against a CRC: the first test that fails wins (R68, R71). Bits 15 and 11:8
are not tested (R69). -/
def checkOutcome (crc : Byte) (w : SafetyWord) : ErrorOutcome :=
  if w.sysOk = 0#1 then .systemError
  else if w.ifOk = 0#1 then .interfaceAccessError
  else if w.angleOk = 0#1 then .invalidAngleError
  else if crc = w.crc then .ok
  else .crcError

/-- RECOV after a check: 1 after CRC_ERROR, else 0 (R19, R68). -/
def recoveryRequest : ErrorOutcome → BitVec 1
  | .ok => 0#1
  | .systemError => 0#1
  | .interfaceAccessError => 0#1
  | .invalidAngleError => 0#1
  | .crcError => 1#1

end Sys2Proof.Machine
end

