-- ==== Sys2Proof/Machine/Command.lean ====
section
/-! DEFINITION. The meanings of the command encoder and the read-data gate (42_command.md). -/

namespace Sys2Proof.Machine

/-- `enc.cmd RW, ACCESS, UPD, ADDR, ND`: the packed command, with no check of any field (R73, R74). -/
def execEncCmd (rw : BitVec 1) (access : BitVec 4) (upd : BitVec 1) (addr : BitVec 6) (nd : BitVec 4) (s : State) :
    Host.Outcome State Fault Refusal :=
  .next (s.finishResult (packCommand { rw := rw, access := access, upd := upd, addr := addr, nd := nd }))

/-- `enc.named SEL`: the named constant; a selector above 10 raises IllegalOperation(3) (R75). DEDUCED (log entry 6): the
decoder refuses such a word first, with the same effect (R53). -/
def execEncNamed (sel : BitVec 4) (s : State) : Host.Outcome State Fault Refusal :=
  match namedOfSel sel with
  | some n => .next (s.finishResult (namedValue n))
  | none => .next (raiseIllegal .selectorOutOfRange s)

/-- `data.gate D`: D if OUTCOME is OK, else 0x0000 (R77). -/
def execDataGate (d : DataWord) (s : State) : Host.Outcome State Fault Refusal :=
  .next (s.finishResult (if s.outcome = outcomeCode .ok then d else 0x0000#16))

end Sys2Proof.Machine
end

