-- ==== Sys2Proof/Machine/Crc.lean ====
section
/-! DEFINITION. The meanings of the CRC generator's operations (40_crc.md). -/

namespace Sys2Proof.Machine

/-- `crc.init`: `ACC <- 0xFF; RECOV <- 0` (R63). -/
def execCrcInit (s : State) : Host.Outcome State Fault Refusal :=
  .next (s.finishAcc crcSeed)

/-- `crc.byte BYTE`: `ACC <- crc_step(ACC, BYTE); RECOV <- 0` (R64). -/
def execCrcByte (byte : Byte) (s : State) : Host.Outcome State Fault Refusal :=
  .next (s.finishAcc (crcStep s.acc byte))

/-- `crc.word D`: the two bytes of D, high byte first (R65). -/
def execCrcWord (d : DataWord) (s : State) : Host.Outcome State Fault Refusal :=
  .next (s.finishAcc (crcFold s.acc (wordBytes d)))

/-- `crc.final`: `RESULT <- zext_16((~ACC) & 0xFF); RECOV <- 0`. ACC is unchanged (R66). -/
def execCrcFinal (s : State) : Host.Outcome State Fault Refusal :=
  .next (s.finishResult ((crcComplement s.acc).setWidth 16))

end Sys2Proof.Machine
end

