-- ==== Sys2Proof/Machine/Fields.lean ====
section
/-! DEFINITION. The meanings of the decoders, the configuration-field extractors and the bit slice (43_decode.md). -/

namespace Sys2Proof.Machine

/-- `dec15 D` (R79). -/
def execDec15 (d : DataWord) (s : State) : Host.Outcome State Fault Refusal :=
  .next (s.finishResult (signedResult (decode15 d)))

/-- `dec9 D` (R81). -/
def execDec9 (d : DataWord) (s : State) : Host.Outcome State Fault Refusal :=
  .next (s.finishResult (signedResult (decode9 d)))

/-- `ext.range D`; a zero field is returned as 0 and is no error (R83, R84). -/
def execExtRange (d : DataWord) (s : State) : Host.Outcome State Fault Refusal :=
  .next (s.finishResult (rangeField d))

/-- `ext.fir D` (R85). -/
def execExtFir (d : DataWord) (s : State) : Host.Outcome State Fault Refusal :=
  .next (s.finishResult (firField d))

/-- `ext.pred D` (R87). -/
def execExtPred (d : DataWord) (s : State) : Host.Outcome State Fault Refusal :=
  .next (s.finishResult (predConstant d))

/-- `bslice HI, LO, D`: the unsigned field; LO > HI raises IllegalOperation(4) (R89). DEDUCED (log entry 6): the decoder
refuses such a word first, with the same effect (R53). -/
def execBslice (hi lo : BitVec 4) (d : DataWord) (s : State) : Host.Outcome State Fault Refusal :=
  if hi.toNat < lo.toNat then .next (raiseIllegal .sliceReversed s)
  else .next (s.finishResult (slice hi.toNat lo.toNat d))

end Sys2Proof.Machine
end

