-- ==== Sys2Proof/Machine/SafetyCheck.lean ====
section
/-! DEFINITION. The meaning of the safety-word check (41_safety.md). -/

namespace Sys2Proof.Machine

/-- `safety.check D`: the outcome of D against the complement of ACC goes to OUTCOME, and RECOV is 1 exactly for CRC_ERROR.
ACC and RESULT are unchanged (R68). -/
def execSafetyCheck (d : DataWord) (s : State) : Host.Outcome State Fault Refusal :=
  let o := checkOutcome (crcComplement s.acc) (unpackSafety d)
  .next ((s.setOutcome (outcomeCode o)).setRecov (recoveryRequest o))

end Sys2Proof.Machine
end

