-- ==== Sys2Proof/Machine/Dispatch.lean ====
section
/-! DEFINITION. One arm per operation of the opcode table. -/

namespace Sys2Proof.Machine

def exec (i : Instr) (s : State) : Host.Outcome State Fault Refusal :=
  match i with
  | .crcInit => Sys2Proof.Machine.execCrcInit s
  | .crcByte byte => Sys2Proof.Machine.execCrcByte byte s
  | .crcWord d => Sys2Proof.Machine.execCrcWord d s
  | .crcFinal => Sys2Proof.Machine.execCrcFinal s
  | .safetyCheck d => Sys2Proof.Machine.execSafetyCheck d s
  | .encCmd rw access upd addr nd => Sys2Proof.Machine.execEncCmd rw access upd addr nd s
  | .encNamed sel => Sys2Proof.Machine.execEncNamed sel s
  | .dataGate d => Sys2Proof.Machine.execDataGate d s
  | .dec15 d => Sys2Proof.Machine.execDec15 d s
  | .dec9 d => Sys2Proof.Machine.execDec9 d s
  | .extRange d => Sys2Proof.Machine.execExtRange d s
  | .extFir d => Sys2Proof.Machine.execExtFir d s
  | .extPred d => Sys2Proof.Machine.execExtPred d s
  | .bslice hi lo d => Sys2Proof.Machine.execBslice hi lo d s

end Sys2Proof.Machine
end

