-- ==== Sys2Proof/Machine/Issue.lean ====
section
/-! DEFINITION. What one operation word does, and one host event: the part of the step that a repair may mend. -/

namespace Sys2Proof.Machine

/-- One operation word (R10): a legal word executes by its rule, an illegal word has the effect of R99 with the first cause that
applies (R53, R98). -/
def issue (w : OpWord) (s : State) : Host.Outcome State Fault Refusal :=
  match decode w with
  | .legal i => exec i s
  | .illegal c => .next (raiseIllegal c s)

/-- One host event: an operation word executes, a reset resets (R15, R109). -/
def handleEvent (e : HostEvent) (s : State) : Host.Outcome State Fault Refusal :=
  match e with
  | .op w => issue w s
  | .reset => .next (applyReset s)

/-- The host's next event, if one is presented. DEDUCED (log entry 3): with nothing presented the block does nothing and keeps
its state (R108). -/
def advance (s : State) : Host.Outcome State Fault Refusal :=
  match takeEvent s with
  | none => .next s
  | some (e, s') => handleEvent e s'

/-- The words `ws`, one after another (R34), until one stops. -/
def issueAll : List OpWord → State → Host.Outcome State Fault Refusal
  | [], s => .next s
  | w :: ws, s =>
    match issue w s with
    | .next s' => issueAll ws s'
    | .fault r => .fault r
    | .refused r => .refused r

end Sys2Proof.Machine
end

