-- ==== Sys2Proof/Machine/Step.lean ====
section
/-! DEFINITION. The step: one host event (R10, R15, R120). -/

namespace Sys2Proof.Machine

/-- One step of the block (R10). -/
def step (s : State) : Host.Outcome State Fault Refusal := advance s

/-- `s` with the operation word of these bits presented next, before anything that already stands on the port (log entry 2). -/
def State.withFetchWord (s : State) (nbits w : Nat) : State := s.present [tableWord nbits w]

end Sys2Proof.Machine
end

