-- ==== Sys2Proof/Machine/Assembler.lean ====
section
/-! DEFINITION. The assembler of R58 with the pseudo-instructions of R59: the boundary at which text is refused (R13). -/

namespace Sys2Proof.Machine

/-- Why the assembler refuses a line (R58). -/
inductive AsmError where
  /-- The line's first word is no mnemonic of R58 or R59. -/
  | unknownMnemonic
  /-- The operands are not those of the mnemonic's syntax, in number or in kind. -/
  | wrongOperands
  /-- An operand does not fit its field. -/
  | doesNotFit
  /-- A selector above 10. -/
  | selectorOutOfRange
  /-- A slice with LO > HI. -/
  | sliceReversed
  deriving DecidableEq, Repr

/-- An operand as written: a number, or any other word (R58). -/
inductive Operand where
  | number (n : Nat)
  | name (chars : List Char)
  deriving DecidableEq, Repr

/-- The pseudo-instructions (R59). -/
inductive Pseudo where
  /-- `enc.read ADDR, ND`. -/
  | encRead (addr : BitVec 6) (nd : BitVec 4)
  /-- `enc.readupd ADDR, ND`. -/
  | encReadupd (addr : BitVec 6) (nd : BitVec 4)
  /-- `validate CMD, SAFETY, W0 [, W1 ... W7]`. -/
  | validate (cmd safety : DataWord) (words : List DataWord)
  /-- `readgated CMD, DATA, SAFETY`. -/
  | readgated (cmd data safety : DataWord)
  deriving DecidableEq, Repr

/-- The expansion column of R59. DEDUCED (log entry 13): R59 gives `validate` for 1 to 8 register words, and the function
expands any number in the same way; `asmValidate` refuses the other lengths. -/
def expandPseudo : Pseudo → List Instr
  | .encRead addr nd => [.encCmd 1#1 0#4 0#1 addr nd]
  | .encReadupd addr nd => [.encCmd 1#1 0#4 1#1 addr nd]
  | .validate cmd safety words => [.crcInit, .crcWord cmd] ++ words.map .crcWord ++ [.safetyCheck safety]
  | .readgated cmd data safety => [.crcInit, .crcWord cmd, .crcWord data, .safetyCheck safety, .dataGate data]

/-! ## Operands -/

/-- A number as a field of `width` bits; one that does not fit is refused, never truncated (R58). -/
def fitField (width n : Nat) : Except AsmError (BitVec width) :=
  if n < 2 ^ width then .ok (BitVec.ofNat width n) else .error .doesNotFit

/-- An operand as a field of `width` bits. -/
def operandField (width : Nat) : Operand → Except AsmError (BitVec width)
  | .number n => fitField width n
  | .name _ => .error .wrongOperands

/-- The names of R47. -/
def namedName : NamedCommand → String
  | .readAngle => "READ_ANGLE"
  | .readAngleSpeed => "READ_ANGLE_SPEED"
  | .readAngleRevolution => "READ_ANGLE_REVOLUTION"
  | .readTemperature => "READ_TEMPERATURE"
  | .readIntmode1 => "READ_INTMODE_1"
  | .readIntmode2 => "READ_INTMODE_2"
  | .readBlockCrc => "READ_BLOCK_CRC"
  | .readUpd0x00 => "READ_UPD_0x00"
  | .readUpdAngle => "READ_UPD_ANGLE"
  | .readUpdAngleSpeed => "READ_UPD_ANGLE_SPEED"
  | .readUpdAngleRevolution => "READ_UPD_ANGLE_REVOLUTION"

/-- A selector, by number or by a name of R47. -/
def operandSelector : Operand → Except AsmError (BitVec 4)
  | .number n => fitField 4 n
  | .name cs =>
    match namedAll.find? (fun n => (namedName n).toList == cs) with
    | some n => .ok (namedSel n)
    | none => .error .wrongOperands

/-- An instruction whose operands the spec calls legal; any other is refused (R56, R58). -/
def checkRange (i : Instr) : Except AsmError Instr :=
  match i.rangeCause with
  | none => .ok i
  | some .sliceReversed => .error .sliceReversed
  | some .selectorOutOfRange => .error .selectorOutOfRange
  | some .reservedOpcode => .error .unknownMnemonic
  | some .reservedField => .error .doesNotFit

/-- An operation with a 16-bit operand. -/
def asmData (mk : DataWord → Instr) (d : Operand) : Except AsmError Instr :=
  match operandField 16 d with
  | .ok v => .ok (mk v)
  | .error e => .error e

/-- One operation of R58 from its operands as written. -/
def asmOperation (o : Opcode) (operands : List Operand) : Except AsmError Instr :=
  match o, operands with
  | .crcInit, [] => .ok .crcInit
  | .crcByte, [b] => (operandField 8 b).bind fun v => .ok (.crcByte v)
  | .crcWord, [d] => asmData .crcWord d
  | .crcFinal, [] => .ok .crcFinal
  | .safetyCheck, [d] => asmData .safetyCheck d
  | .encCmd, [rw, access, upd, addr, nd] =>
    (operandField 1 rw).bind fun r => (operandField 4 access).bind fun a => (operandField 1 upd).bind fun u =>
      (operandField 6 addr).bind fun x => (operandField 4 nd).bind fun n => .ok (.encCmd r a u x n)
  | .encNamed, [sel] => (operandSelector sel).bind fun v => checkRange (.encNamed v)
  | .dataGate, [d] => asmData .dataGate d
  | .dec15, [d] => asmData .dec15 d
  | .dec9, [d] => asmData .dec9 d
  | .extRange, [d] => asmData .extRange d
  | .extFir, [d] => asmData .extFir d
  | .extPred, [d] => asmData .extPred d
  | .bslice, [hi, lo, d] =>
    (operandField 4 hi).bind fun h => (operandField 4 lo).bind fun l => (operandField 16 d).bind fun v =>
      checkRange (.bslice h l v)
  | _, _ => .error .wrongOperands

/-- The operands of an instruction as numbers, in the order of its syntax (R58). -/
def operandValues : Instr → List Nat
  | .crcInit => []
  | .crcByte b => [b.toNat]
  | .crcWord d => [d.toNat]
  | .crcFinal => []
  | .safetyCheck d => [d.toNat]
  | .encCmd rw access upd addr nd => [rw.toNat, access.toNat, upd.toNat, addr.toNat, nd.toNat]
  | .encNamed sel => [sel.toNat]
  | .dataGate d => [d.toNat]
  | .dec15 d => [d.toNat]
  | .dec9 d => [d.toNat]
  | .extRange d => [d.toNat]
  | .extFir d => [d.toNat]
  | .extPred d => [d.toNat]
  | .bslice hi lo d => [hi.toNat, lo.toNat, d.toNat]

/-- Every operand of the list as a 16-bit word. -/
def operandWords : List Operand → Except AsmError (List DataWord)
  | [] => .ok []
  | o :: os => (operandField 16 o).bind fun v => (operandWords os).bind fun vs => .ok (v :: vs)

/-- `validate` takes 1 to 8 register words (R59). -/
def asmValidate (cmd safety : Operand) (words : List Operand) : Except AsmError Pseudo :=
  if Config.minSnapshotWords ≤ words.length ∧ words.length ≤ Config.maxSnapshotWords then
    (operandField 16 cmd).bind fun c => (operandField 16 safety).bind fun s => (operandWords words).bind fun ws =>
      .ok (.validate c s ws)
  else .error .wrongOperands

/-- One pseudo-instruction of R59 from its mnemonic and its operands as written. -/
def asmPseudo (mnemonic : List Char) (operands : List Operand) : Except AsmError Pseudo :=
  if mnemonic = "enc.read".toList then
    match operands with
    | [addr, nd] => (operandField 6 addr).bind fun a => (operandField 4 nd).bind fun n => .ok (.encRead a n)
    | _ => .error .wrongOperands
  else if mnemonic = "enc.readupd".toList then
    match operands with
    | [addr, nd] => (operandField 6 addr).bind fun a => (operandField 4 nd).bind fun n => .ok (.encReadupd a n)
    | _ => .error .wrongOperands
  else if mnemonic = "validate".toList then
    match operands with
    | cmd :: safety :: words => asmValidate cmd safety words
    | _ => .error .wrongOperands
  else if mnemonic = "readgated".toList then
    match operands with
    | [cmd, data, safety] =>
      (operandField 16 cmd).bind fun c => (operandField 16 data).bind fun d => (operandField 16 safety).bind fun s =>
        .ok (.readgated c d s)
    | _ => .error .wrongOperands
  else .error .unknownMnemonic

/-- One statement: an operation of R58, or a pseudo-instruction of R59 and its expansion. -/
def asmStatement (mnemonic : List Char) (operands : List Operand) : Except AsmError (List Instr) :=
  match Opcode.all.find? (fun o => o.mnemonic.toList == mnemonic) with
  | some o => (asmOperation o operands).bind fun i => .ok [i]
  | none => (asmPseudo mnemonic operands).bind fun p => .ok (expandPseudo p)

/-! ## Text. DESIGN CHOICE (log entry 11): which characters are blanks, both cases of a hexadecimal digit, empty lines. -/

/-- A blank between words. -/
def isBlank (c : Char) : Bool := c == ' ' || c == '\t' || c == '\r'

/-- The text without the blanks at its ends. -/
def trimBlanks (cs : List Char) : List Char := ((cs.dropWhile isBlank).reverse.dropWhile isBlank).reverse

/-- The value of a digit in base 10 or 16. -/
def digitValue (base : Nat) (c : Char) : Option Nat :=
  let v := if '0' ≤ c ∧ c ≤ '9' then c.toNat - '0'.toNat
    else if 'a' ≤ c ∧ c ≤ 'f' then c.toNat - 'a'.toNat + 10
    else if 'A' ≤ c ∧ c ≤ 'F' then c.toNat - 'A'.toNat + 10
    else base
  if v < base then some v else none

/-- Digits read on from the value `n`. -/
def digitsFrom (base : Nat) : Nat → List Char → Option Nat
  | n, [] => some n
  | n, c :: cs =>
    match digitValue base c with
    | some v => digitsFrom base (n * base + v) cs
    | none => none

/-- One digit or more. -/
def digits (base : Nat) : List Char → Option Nat
  | [] => none
  | c :: cs => digitsFrom base 0 (c :: cs)

/-- "Numbers are hexadecimal with `0x` or decimal" (R58). -/
def readNumber : List Char → Option Nat
  | '0' :: 'x' :: cs => digits 16 cs
  | cs => digits 10 cs

/-- An operand as written. -/
def readOperand (cs : List Char) : Operand :=
  match readNumber cs with
  | some n => .number n
  | none => .name cs

/-- The operands after a mnemonic, separated by commas (R58). -/
def readOperandList (cs : List Char) : List Operand :=
  if cs = [] then [] else (cs.splitOn ',').map fun t => readOperand (trimBlanks t)

/-- One line: a mnemonic, its operands, and a comment from `;` on (R58). -/
def asmLine (line : List Char) : Except AsmError (List Instr) :=
  let text := trimBlanks (line.takeWhile (fun c => c != ';'))
  if text = [] then .ok []
  else asmStatement (text.takeWhile (fun c => !isBlank c))
    (readOperandList (trimBlanks (text.dropWhile (fun c => !isBlank c))))

/-- Lines one after another; the first that is refused refuses the whole text. -/
def asmLines : List (List Char) → Except AsmError (List Instr)
  | [] => .ok []
  | l :: ls => (asmLine l).bind fun is => (asmLines ls).bind fun rest => .ok (is ++ rest)

/-- A program text as operation words (R58). -/
def assemble (text : String) : Except AsmError (List OpWord) :=
  (asmLines (text.toList.splitOn '\n')).bind fun is => .ok (is.map encode)

end Sys2Proof.Machine
end

