-- ==== Sys2Proof/Machine/Source.lean ====
section
/-! DEFINITION. The source's pure functions, which the spec shows the block equal to (R61, R62, R70, R78), and the reference
table of R86. The machine's step uses none of them: statements compare the block with them. -/

namespace Sys2Proof.Machine

/-- `crc8(bytes)` (R61). -/
def crc8 (bytes : List Byte) : Byte := crcComplement (crcFold crcSeed bytes)

/-- The bytes a safety word covers: the command's, then each register word's, all high byte first (R30, R70). -/
def transactionBytes (command : DataWord) (registers : List DataWord) : List Byte :=
  wordBytes command ++ registers.flatMap wordBytes

/-- The source's `validate(safety, command, registers)` (R68, R70): first match wins, and a status failure makes no CRC
comparison. DEDUCED (log entry 13): the source gives it for 1 to 8 register words; the function is total. -/
def validate (safety command : DataWord) (registers : List DataWord) : ErrorOutcome :=
  if safety.getLsbD 14 = false then .systemError
  else if safety.getLsbD 13 = false then .interfaceAccessError
  else if safety.getLsbD 12 = false then .invalidAngleError
  else if crc8 (transactionBytes command registers) = safety.setWidth 8 then .ok
  else .crcError

/-- The value part of the source's `readRegister(command)`: the outcome, and the data word zeroed on any outcome but Ok
(R77, R78). -/
def readRegisterValue (command data safety : DataWord) : ErrorOutcome × DataWord :=
  match validate safety command [data] with
  | .ok => (.ok, data)
  | .systemError => (.systemError, 0x0000#16)
  | .interfaceAccessError => (.interfaceAccessError, 0x0000#16)
  | .invalidAngleError => (.invalidAngleError, 0x0000#16)
  | .crcError => (.crcError, 0x0000#16)

/-! ## An accumulator of any width, without masking (R62, log entry 15) -/

/-- One shift of R60's loop on `W` bits, nothing masked off. -/
def wideShift {W : Nat} (x : BitVec W) : BitVec W :=
  if x.getLsbD 7 then (x <<< 1) ^^^ crcPoly.setWidth W else x <<< 1

/-- `n` such shifts. -/
def wideShifts {W : Nat} : Nat → BitVec W → BitVec W
  | 0, x => x
  | n + 1, x => wideShifts n (wideShift x)

/-- One byte fed to it. -/
def wideStep {W : Nat} (a : BitVec W) (b : Byte) : BitVec W := wideShifts 8 (a ^^^ b.setWidth W)

/-- `crc8` on an accumulator of `W` bits: only the final complement is truncated to 8 bits. -/
def crc8Wide (W : Nat) (bytes : List Byte) : Byte :=
  (~~~(bytes.foldl wideStep (crcSeed.setWidth W))).setWidth 8

/-! ## The FIR constants (R86, informative) -/

/-- The FIR constant of a code, in tenths of a microsecond, paired in the order listed (R86; log entry 14). -/
def firConstantTenths (code : BitVec 2) : Nat :=
  if code = 0#2 then 213 else if code = 1#2 then 427 else if code = 2#2 then 853 else 1706

end Sys2Proof.Machine
end

