-- ==== Sys2Proof/Safety.lean ====
section
/-! DEFINITION. The terms that statements use: the reachable register values, what the host fed, and the effect of an illegal
word in the spec's own words. -/

namespace Sys2Proof.Safety

open Sys2Proof.Machine

/-- The register values that the rules can produce. OUTCOME 5 and 6 and ILLC 5 to 7 are never written (R18, R22); ILLC is 0
exactly while ILL is 0 (R21, R22, R99); RECOV is 1 only where OUTCOME is CRC_ERROR (R19). -/
abbrev Inv (s : State) : Prop :=
  s.outcome ≠ 5#3 ∧ s.outcome ≠ 6#3 ∧ s.illc.toNat ≤ 4 ∧ (s.ill = 0#1 ↔ s.illc = 0#3) ∧ (s.recov = 1#1 → s.outcome = 4#3)

/-- The state after an illegal word with cause code `c`, as R99 writes it. -/
def afterIllegal (c : BitVec 3) (s : State) : State :=
  { s with ill := 1#1, illc := if s.ill = 0#1 then c else s.illc }

/-- The six registers are the same (R12); what the host presents may differ. -/
abbrev SameRegisters (s t : State) : Prop := s.outputs = t.outputs

/-- The bytes an operation feeds to ACC (R64, R65). -/
def fedByInstr : Instr → List Byte
  | .crcInit => []
  | .crcByte b => [b]
  | .crcWord d => [d.extractLsb 15 8, d.extractLsb 7 0]
  | .crcFinal => []
  | .safetyCheck _ => []
  | .encCmd _ _ _ _ _ => []
  | .encNamed _ => []
  | .dataGate _ => []
  | .dec15 _ => []
  | .dec9 _ => []
  | .extRange _ => []
  | .extFir _ => []
  | .extPred _ => []
  | .bslice _ _ _ => []

/-- The bytes a word feeds to ACC: none if it is illegal (R67). -/
def fedByWord (w : OpWord) : List Byte :=
  match decode w with
  | .legal i => fedByInstr i
  | .illegal _ => []

/-- The bytes a sequence of words feeds to ACC, in order (R67). -/
def fedBytes (ws : List OpWord) : List Byte := ws.flatMap fedByWord

/-- The cause of the first illegal word of a sequence. -/
def firstCause : List OpWord → Option IllegalCause
  | [] => none
  | w :: ws =>
    match decode w with
    | .legal _ => firstCause ws
    | .illegal c => some c

/-- A program is well formed when every one of its words is legal (R13). -/
def wellFormedProgram (ws : List OpWord) : Bool := ws.all legalWord

/-- The operation is a `safety.check` (R18). -/
def isCheck : Instr → Bool
  | .crcInit => false
  | .crcByte _ => false
  | .crcWord _ => false
  | .crcFinal => false
  | .safetyCheck _ => true
  | .encCmd _ _ _ _ _ => false
  | .encNamed _ => false
  | .dataGate _ => false
  | .dec15 _ => false
  | .dec9 _ => false
  | .extRange _ => false
  | .extFir _ => false
  | .extPred _ => false
  | .bslice _ _ _ => false

/-- The word is a legal `safety.check`. -/
def isCheckWord (w : OpWord) : Bool :=
  match decode w with
  | .legal i => isCheck i
  | .illegal _ => false

/-- The operation writes ACC: `crc.init`, `crc.byte` and `crc.word` do (R16, R17). -/
def writesAcc : Instr → Bool
  | .crcInit => true
  | .crcByte _ => true
  | .crcWord _ => true
  | .crcFinal => false
  | .safetyCheck _ => false
  | .encCmd _ _ _ _ _ => false
  | .encNamed _ => false
  | .dataGate _ => false
  | .dec15 _ => false
  | .dec9 _ => false
  | .extRange _ => false
  | .extFir _ => false
  | .extPred _ => false
  | .bslice _ _ _ => false

/-- The operation produces a value in RESULT: every one but `crc.init`, `crc.byte`, `crc.word` and `safety.check` (R20). -/
def writesResult : Instr → Bool
  | .crcInit => false
  | .crcByte _ => false
  | .crcWord _ => false
  | .crcFinal => true
  | .safetyCheck _ => false
  | .encCmd _ _ _ _ _ => true
  | .encNamed _ => true
  | .dataGate _ => true
  | .dec15 _ => true
  | .dec9 _ => true
  | .extRange _ => true
  | .extFir _ => true
  | .extPred _ => true
  | .bslice _ _ _ => true

/-- The operation reads ACC (R16). -/
def readsAcc : Instr → Bool
  | .crcInit => false
  | .crcByte _ => true
  | .crcWord _ => true
  | .crcFinal => true
  | .safetyCheck _ => true
  | .encCmd _ _ _ _ _ => false
  | .encNamed _ => false
  | .dataGate _ => false
  | .dec15 _ => false
  | .dec9 _ => false
  | .extRange _ => false
  | .extFir _ => false
  | .extPred _ => false
  | .bslice _ _ _ => false

/-- The operation reads OUTCOME: `data.gate` alone does (R16). -/
def readsOutcome : Instr → Bool
  | .crcInit => false
  | .crcByte _ => false
  | .crcWord _ => false
  | .crcFinal => false
  | .safetyCheck _ => false
  | .encCmd _ _ _ _ _ => false
  | .encNamed _ => false
  | .dataGate _ => true
  | .dec15 _ => false
  | .dec9 _ => false
  | .extRange _ => false
  | .extFir _ => false
  | .extPred _ => false
  | .bslice _ _ _ => false

/-- OUTCOME's code for a safety word and ACC, as R68's pseudocode computes it. -/
def checkCode (acc : BitVec 8) (d : DataWord) : BitVec 3 :=
  if d.getLsbD 14 = false then 1#3
  else if d.getLsbD 13 = false then 2#3
  else if d.getLsbD 12 = false then 3#3
  else if ~~~acc = d.extractLsb 7 0 then 0#3
  else 4#3

/-- The value column of R47, in the order of SEL. -/
def namedTable : List DataWord :=
  [0x8021#16, 0x8031#16, 0x8041#16, 0x8051#16, 0x8061#16, 0x8081#16, 0x8088#16, 0x8401#16, 0x8421#16, 0x8431#16, 0x8441#16]

/-- The bits that the format of an OPC value reserves, as a mask (R39 to R45). -/
def reservedMask (opc : Nat) : OpWord :=
  if opc = 0x0 ∨ opc = 0x3 then 0x0FFFFFFF#32
  else if opc = 0x1 then 0x0FFFFF00#32
  else if opc = 0x5 then 0x00000FFF#32
  else if opc = 0x6 then 0x00FFFFFF#32
  else if opc = 0xD then 0x000F0000#32
  else 0x0FFF0000#32

/-- The cause of an operation word by the tests of R53 and the table of R98; none for a legal word. -/
def firstFailingTest (w : OpWord) : Option (BitVec 3) :=
  let opc := w.toNat / 2 ^ 28
  if opc = 0xE ∨ opc = 0xF then some 1#3
  else if w &&& reservedMask opc ≠ 0#32 then some 2#3
  else if opc = 0x6 ∧ (w.extractLsb 27 24).toNat > 10 then some 3#3
  else if opc = 0xD ∧ (w.extractLsb 23 20).toNat > (w.extractLsb 27 24).toNat then some 4#3
  else none

/-- A row of the opcode table admits a word: its match and mask, and its constraint where it has one. -/
def rowAdmits (o : Opcode) (w : OpWord) : Prop :=
  w &&& o.matchMask = o.matchBits ∧
    (o = .encNamed → (w.extractLsb 27 24).toNat ≤ 10) ∧
    (o = .bslice → (w.extractLsb 23 20).toNat ≤ (w.extractLsb 27 24).toNat)

/-- The number of register words that one safety word may cover (R5, R72). -/
abbrev SnapshotLength (words : List DataWord) : Prop :=
  Config.minSnapshotWords ≤ words.length ∧ words.length ≤ Config.maxSnapshotWords

end Sys2Proof.Safety
end

