-- ==== Sys2Proof/Certificates/Slice0/Obligations.lean ====
section
/-! DEFINITION. The statements for the provers. A next state is written as one record update: every field it does not name is
unchanged, which is the operation's frame (the block has no memory). -/

open Sys2Proof Sys2Proof.Machine Sys2Proof.Safety

/-! ## Encoding -/

/-- Sample words, written out from the formats of R40 to R45, decode to the operations they stand for (R39, R53). -/
def Obligations.SampleWordsDecode : Prop :=
  decode 0x00000000#32 = .legal .crcInit ∧
  decode 0x10000080#32 = .legal (.crcByte 0x80#8) ∧
  decode 0x400070CE#32 = .legal (.safetyCheck 0x70CE#16) ∧
  decode 0x55061000#32 = .legal (.encCmd 0#1 0xA#4 0#1 0x06#6 1#4) ∧
  decode 0x6A000000#32 = .legal (.encNamed 10#4) ∧
  decode 0xDB807A3C#32 = .legal (.bslice 11#4 8#4 0x7A3C#16) ∧
  decode 0x6B000001#32 = .illegal .reservedField ∧
  decode 0x6B000000#32 = .illegal .selectorOutOfRange ∧
  decode 0xD0F00000#32 = .illegal .sliceReversed ∧
  decode 0xFFFFFFFF#32 = .illegal .reservedOpcode

/-- Every well-formed operation, with every operand at every value its field admits, is what its own word decodes to. -/
def Obligations.DecodeOfEncode : Prop :=
  ∀ i : Instr, i.wellFormed = true → decode (encode i) = .legal i

/-- A legal word is the encoding of the operation it decodes to, so it has no second meaning and drops no bit; and that
operation is well formed. -/
def Obligations.EncodeOfDecode : Prop :=
  ∀ (w : OpWord) (i : Instr), decode w = .legal i → i.wellFormed = true ∧ encode i = w

/-- R53 and R98: the first failing test, in the order reserved opcode, reserved field, value out of range, decides the cause
that an illegal word records; a word that fails none is legal and executes by its rule; every operation can raise cause 2. The
tests are written with the masks of R40 to R45 (`Safety.firstFailingTest`). -/
def Obligations.FirstFailingTestDecides : Prop :=
  (∀ w : OpWord,
    match decode w with
    | .legal i => firstFailingTest w = none ∧ ∀ s : State, issue w s = exec i s
    | .illegal c =>
      firstFailingTest w = some (causeCode c) ∧ ∀ s : State, issue w s = .next (afterIllegal (causeCode c) s)) ∧
  (∀ o : Opcode, ∃ w : OpWord, opcField w = o.code ∧ decode w = .illegal .reservedField)

/-- The legal words are exactly those of the opcode table: its match and mask columns, and its two constraints. -/
def Obligations.LegalWordsAreTheTable : Prop :=
  ∀ w : OpWord, legalWord w = true ↔ ∃ o : Opcode, rowAdmits o w

/-- The fields of a sensor command and its 16 bits determine each other (R46). -/
def Obligations.CommandFieldsRoundTrip : Prop :=
  (∀ c : Command, unpackCommand (packCommand c) = c) ∧ (∀ d : DataWord, packCommand (unpackCommand d) = d)

/-! ## Steps and host events -/

/-- A step runs the word that the host presents next: a legal word as its operation (R10, R15), an illegal word with the
effect of R99. With nothing presented the state is kept (log entry 3), and a reset event resets (log entry 4): those two
clauses are the model's reading of R108 and R109. -/
def Obligations.StepRunsPresentedEvent : Prop :=
  (∀ (s : State) (w : OpWord) (rest : List HostEvent) (i : Instr), s.port = .op w :: rest → decode w = .legal i →
    step s = exec i { s with port := rest }) ∧
  (∀ (s : State) (w : OpWord) (rest : List HostEvent) (c : IllegalCause), s.port = .op w :: rest → decode w = .illegal c →
    step s = .next (afterIllegal (causeCode c) { s with port := rest })) ∧
  (∀ (s : State) (rest : List HostEvent), s.port = .reset :: rest → step s = .next { State.reset with port := rest }) ∧
  (∀ s : State, s.port = [] → step s = .next s)

/-- A step after `withFetchWord` executes that word, and what stood on the port is still to come (log entry 2). -/
def Obligations.WithFetchWordRunsIt : Prop :=
  ∀ (s : State) (w : Nat), step (s.withFetchWord 32 w) = issue (BitVec.ofNat 32 w) s

/-- R10: from every state and for every word there is a next state, so the step never faults and never refuses; a legal word
has its operation's effect and an illegal word that of R99. -/
def Obligations.StepIsTotal : Prop :=
  (∀ s : State, ∃ t, step s = .next t) ∧
  (∀ (w : OpWord) (s : State), ∃ t, issue w s = .next t ∧
    ((∃ i, decode w = .legal i ∧ exec i s = .next t) ∨
     (∃ c, decode w = .illegal c ∧ t = { s with ill := 1#1, illc := if s.ill = 0#1 then causeCode c else s.illc })))

/-- Every step takes exactly the next event off the port, and no operation changes the words the host will present later
(R34, R36). That they stand in State is the model's choice (log entry 1). -/
def Obligations.StepConsumesOneEvent : Prop :=
  ∀ s t : State, step s = .next t → t.port = s.port.tail

/-- A step depends on the six registers and the presented event alone (R10, R15): two states that show the host the same
registers show the same ones after the same event, whatever the host presents later. -/
def Obligations.StepDependsOnRegistersAndEvent : Prop :=
  ∀ (s t s' t' : State), SameRegisters s t → s.port.head? = t.port.head? → step s = .next s' → step t = .next t' →
    SameRegisters s' t'

/-- Running the words that the host presents, step by step, is executing them one after another; the rest of the port is still
to come (R34). -/
def Obligations.StepsRunPresentedWords : Prop :=
  ∀ (ws : List OpWord) (s : State), Host.Core.run Sys2Proof.core ws.length (s.present ws) = issueAll ws s

/-- The reset values (R28), and that reset gives them all at once from any state (R109). That reset keeps what the host presents
next (`port := s.port`) is the model's reading of R109 (log entry 4). -/
def Obligations.ResetValues : Prop :=
  State.reset.acc = 0xFF#8 ∧ State.reset.result = 0x0000#16 ∧ State.reset.outcome = 7#3 ∧ State.reset.recov = 0#1 ∧
  State.reset.ill = 0#1 ∧ State.reset.illc = 0#3 ∧
  (∀ s : State, applyReset s =
    { acc := 0xFF#8, result := 0x0000#16, outcome := 7#3, recov := 0#1, ill := 0#1, illc := 0#3, port := s.port })

/-! ## Illegal operations -/

/-- R99: an illegal word with cause c sets ILL, records c in ILLC if ILL was 0, and does nothing else; the next word then
executes normally. -/
def Obligations.IllegalWordEffect : Prop :=
  ∀ (w : OpWord) (c : IllegalCause) (s : State), decode w = .illegal c →
    issue w s = .next
      { acc := s.acc, result := s.result, outcome := s.outcome, recov := s.recov, ill := 1#1,
        illc := if s.ill = 0#1 then causeCode c else s.illc, port := s.port } ∧
    ∀ (v : OpWord) (i : Instr), decode v = .legal i → issueAll [w, v] s = exec i (afterIllegal (causeCode c) s)

/-- ILL is sticky (R21) and ILLC keeps the first cause (R22): no event but a reset clears either, a legal word changes
neither, and once ILL is 1 nothing but a reset changes ILLC. -/
def Obligations.IllegalFlagIsSticky : Prop :=
  (∀ (s t : State), s.port.head? ≠ some .reset → step s = .next t → s.ill = 1#1 → t.ill = 1#1 ∧ t.illc = s.illc) ∧
  (∀ (w : OpWord) (s t : State), legalWord w = true → issue w s = .next t → t.ill = s.ill ∧ t.illc = s.illc)

/-- Over any sequence of words from a state with ILL = 0: ILL ends 0 exactly when every word is legal (R13, R21), and ILLC
then is unchanged, else it holds the code of the first illegal word (R22). -/
def Obligations.IllRecordsFirstIllegalWord : Prop :=
  ∀ (ws : List OpWord) (s t : State), s.ill = 0#1 → issueAll ws s = .next t →
    (t.ill = 0#1 ↔ wellFormedProgram ws = true) ∧
    t.illc = match firstCause ws with
      | none => s.illc
      | some c => causeCode c

/-! ## The CRC generator -/

/-- R60: `crc_step` is the source's loop: exclusive or with the byte, then eight times: test bit 7, shift left within 8 bits,
and exclusive or with 0x1D if it was 1. -/
def Obligations.CrcStepIsTheLoop : Prop :=
  ∀ a b : Byte,
    crcStep a b =
      (List.range 8).foldl (fun x _ => if x.getLsbD 7 then ((x <<< 1) &&& 0xFF#8) ^^^ 0x1D#8 else (x <<< 1) &&& 0xFF#8) (a ^^^ b)

/-- R61: `crc8` folds the step from 0xFF and complements; it is 0x00 on the empty sequence. -/
def Obligations.CrcEightFoldsAndComplements : Prop :=
  (∀ bytes : List Byte, crc8 bytes = (~~~(bytes.foldl crcStep 0xFF#8)) &&& 0xFF#8) ∧ crc8 [] = 0x00#8

/-- The CRC step is linear: exclusive ors of accumulators and of bytes go through it (from R60). -/
def Obligations.CrcStepLinear : Prop :=
  ∀ a a' b b' : Byte, crcStep (a ^^^ a') (b ^^^ b') = crcStep a b ^^^ crcStep a' b'

/-- R62, which the spec marks derived: on an accumulator of any width from 8 bits up, nothing masked but the final
complement, the CRC is the same; and the higher bits are not zero: after 0x80 from the seed a 32-bit accumulator holds
0x00007AE2. -/
def Obligations.WideAccumulatorAgrees : Prop :=
  (∀ (W : Nat) (bytes : List Byte), 8 ≤ W → crc8Wide W bytes = crc8 bytes) ∧
  (∀ (W : Nat) (bytes : List Byte), 8 ≤ W →
    (bytes.foldl wideStep (crcSeed.setWidth W)).setWidth 8 = bytes.foldl crcStep 0xFF#8) ∧
  wideStep 0x000000FF#32 0x80#8 = 0x00007AE2#32

/-- Changing one byte of a stream in any way, a single bit among them, changes the CRC (the source's property behind V-CRC-14,
for every length). -/
def Obligations.ChangedByteChangesCrc : Prop :=
  ∀ (before after : List Byte) (b c : Byte), b ≠ c → crc8 (before ++ b :: after) ≠ crc8 (before ++ c :: after)

/-- R63: `crc.init`. -/
def Obligations.CrcInitLoadsSeed : Prop :=
  encode .crcInit = 0x00000000#32 ∧
  (∀ s : State, exec .crcInit s = .next { s with acc := 0xFF#8, recov := 0#1 }) ∧
  (∀ (w : OpWord) (s : State), w.extractLsb 31 28 = 0x0#4 →
    issue w s = .next
      (if w.extractLsb 27 0 ≠ 0#28 then afterIllegal 2#3 s else { s with acc := 0xFF#8, recov := 0#1 }))

/-- R64: `crc.byte BYTE`. -/
def Obligations.CrcByteFeedsOneByte : Prop :=
  (∀ b : Byte, encode (.crcByte b) = 0x10000000#32 ||| b.setWidth 32) ∧
  (∀ (b : Byte) (s : State), exec (.crcByte b) s = .next { s with acc := crcStep s.acc b, recov := 0#1 }) ∧
  (∀ (w : OpWord) (s : State), w.extractLsb 31 28 = 0x1#4 →
    issue w s = .next
      (if w.extractLsb 27 8 ≠ 0#20 then afterIllegal 2#3 s
       else { s with acc := crcStep s.acc (w.extractLsb 7 0), recov := 0#1 }))

/-- R65: `crc.word D`, high byte first. -/
def Obligations.CrcWordFeedsHighByteFirst : Prop :=
  (∀ d : DataWord, encode (.crcWord d) = 0x20000000#32 ||| d.setWidth 32) ∧
  (∀ (d : DataWord) (s : State),
    exec (.crcWord d) s = .next
      { s with acc := crcStep (crcStep s.acc (d.extractLsb 15 8)) (d.extractLsb 7 0), recov := 0#1 }) ∧
  (∀ (w : OpWord) (s : State), w.extractLsb 31 28 = 0x2#4 →
    issue w s = .next
      (if w.extractLsb 27 16 ≠ 0#12 then afterIllegal 2#3 s
       else { s with acc := crcStep (crcStep s.acc (w.extractLsb 15 8)) (w.extractLsb 7 0), recov := 0#1 }))

/-- R66: `crc.final`; ACC is unchanged. -/
def Obligations.CrcFinalComplements : Prop :=
  encode .crcFinal = 0x30000000#32 ∧
  (∀ s : State, exec .crcFinal s = .next { s with result := (~~~s.acc).setWidth 16, recov := 0#1 }) ∧
  (∀ (w : OpWord) (s : State), w.extractLsb 31 28 = 0x3#4 →
    issue w s = .next
      (if w.extractLsb 27 0 ≠ 0#28 then afterIllegal 2#3 s
       else { s with result := (~~~s.acc).setWidth 16, recov := 0#1 }))

/-- `crc.word D` is `crc.byte` of the high byte and then of the low byte (R30, R65), on the words themselves. -/
def Obligations.CrcWordIsTwoCrcBytes : Prop :=
  ∀ (d : DataWord) (s : State),
    issueAll [encode (.crcWord d)] s = issueAll [encode (.crcByte (d.extractLsb 15 8)), encode (.crcByte (d.extractLsb 7 0))] s

/-- R67, which the spec marks derived: from reset or from `crc.init`, after any words with no further `crc.init` among them,
ACC is the fold of the step over the bytes fed, in order; a `crc.final` then gives RESULT = zext_16(crc8 of those bytes).
Illegal words and operations that do not write ACC may stand anywhere between. -/
def Obligations.CrcRunComputesCrcEight : Prop :=
  ∀ (s : State) (ws : List OpWord),
    (SameRegisters s State.reset ∨ ∃ s₀, issue 0x00000000#32 s₀ = .next s) → (∀ w ∈ ws, decode w ≠ .legal .crcInit) →
      ∃ t u, issueAll ws s = .next t ∧ t.acc = (fedBytes ws).foldl crcStep 0xFF#8 ∧
        issue 0x30000000#32 t = .next u ∧ u.result = (crc8 (fedBytes ws)).setWidth 16

/-! ## The safety-word check -/

/-- R68: `safety.check D`: the first failing test gives the code, RECOV is 1 exactly for CRC_ERROR, and ACC and RESULT are
unchanged. -/
def Obligations.SafetyCheckOutcome : Prop :=
  (∀ d : DataWord, encode (.safetyCheck d) = 0x40000000#32 ||| d.setWidth 32) ∧
  (∀ (d : DataWord) (s : State),
    exec (.safetyCheck d) s = .next
      { s with outcome := checkCode s.acc d, recov := if checkCode s.acc d = 4#3 then 1#1 else 0#1 }) ∧
  (∀ (w : OpWord) (s : State), w.extractLsb 31 28 = 0x4#4 →
    issue w s = .next
      (if w.extractLsb 27 16 ≠ 0#12 then afterIllegal 2#3 s
       else
        { s with
          outcome := checkCode s.acc (w.extractLsb 15 0)
          recov := if checkCode s.acc (w.extractLsb 15 0) = 4#3 then 1#1 else 0#1 }))

/-- Two safety words that differ only in bits 15 and 11:8 have the same effect (R69). -/
def Obligations.SafetyCheckIgnoresUntestedBits : Prop :=
  ∀ (d e : DataWord) (s : State), d &&& 0x70FF#16 = e &&& 0x70FF#16 → exec (.safetyCheck d) s = exec (.safetyCheck e) s

/-- A status failure decides whatever ACC and the CRC byte are (R68, R71): with bits 14, 13 and 12 not all set, OUTCOME and
RECOV do not depend on ACC, and RECOV is 0. -/
def Obligations.StatusFailureShortCircuitsCrc : Prop :=
  ∀ (d : DataWord) (a : Byte) (s t u : State), d &&& 0x7000#16 ≠ 0x7000#16 → exec (.safetyCheck d) s = .next t →
    exec (.safetyCheck d) { s with acc := a } = .next u →
      t.outcome = u.outcome ∧ t.recov = 0#1 ∧ u.recov = 0#1 ∧ t.outcome ≠ 0#3 ∧ t.outcome ≠ 4#3

/-- R70, which the spec marks derived: the words of the `validate` pseudo-instruction leave in OUTCOME the code of what the
source's `validate` returns, from every state; RECOV is 1 exactly for CRC_ERROR, and RESULT, ILL and ILLC are unchanged. R59
and R70 speak of 1 to 8 register words; that it is stated for any number, with `validate` extended to them, is the model's
choice (log entry 13). -/
def Obligations.ValidateSequenceComputesValidate : Prop :=
  ∀ (s : State) (cmd sw : DataWord) (regs : List DataWord),
    ∃ t, issueAll ((expandPseudo (.validate cmd sw regs)).map encode) s = .next t ∧
      t.outcome = outcomeCode (validate sw cmd regs) ∧
      (t.recov = 1#1 ↔ validate sw cmd regs = .crcError) ∧
      t.result = s.result ∧ t.ill = s.ill ∧ t.illc = s.illc

/-! ## The command encoder and the read-data gate -/

/-- R73: `enc.cmd` packs the five fields with no check of any; RESULT is op[27:12]. -/
def Obligations.EncCmdPacksFields : Prop :=
  (∀ (rw : BitVec 1) (access : BitVec 4) (upd : BitVec 1) (addr : BitVec 6) (nd : BitVec 4),
    encode (.encCmd rw access upd addr nd) =
      0x50000000#32 ||| rw.setWidth 32 <<< 27 ||| access.setWidth 32 <<< 23 ||| upd.setWidth 32 <<< 22
        ||| addr.setWidth 32 <<< 16 ||| nd.setWidth 32 <<< 12) ∧
  (∀ (rw : BitVec 1) (access : BitVec 4) (upd : BitVec 1) (addr : BitVec 6) (nd : BitVec 4) (s : State),
    exec (.encCmd rw access upd addr nd) s = .next { s with result := rw ++ access ++ upd ++ addr ++ nd, recov := 0#1 }) ∧
  (∀ (w : OpWord) (s : State), w.extractLsb 31 28 = 0x5#4 →
    issue w s = .next
      (if w.extractLsb 11 0 ≠ 0#12 then afterIllegal 2#3 s
       else { s with result := w.extractLsb 27 12, recov := 0#1 }))

/-- R75: `enc.named SEL` gives the constant of R47 for SEL 0 to 10, and raises cause 3 for 11 to 15. -/
def Obligations.EncNamedGivesConstant : Prop :=
  (∀ sel : BitVec 4, encode (.encNamed sel) = 0x60000000#32 ||| sel.setWidth 32 <<< 24) ∧
  (∀ (sel : BitVec 4) (s : State), sel.toNat ≤ 10 →
    exec (.encNamed sel) s = .next { s with result := namedTable.getD sel.toNat 0#16, recov := 0#1 }) ∧
  (∀ (sel : BitVec 4) (s : State), 10 < sel.toNat → exec (.encNamed sel) s = .next (afterIllegal 3#3 s)) ∧
  (∀ (w : OpWord) (s : State), w.extractLsb 31 28 = 0x6#4 →
    issue w s = .next
      (if w.extractLsb 23 0 ≠ 0#24 then afterIllegal 2#3 s
       else if 10 < (w.extractLsb 27 24).toNat then afterIllegal 3#3 s
       else { s with result := namedTable.getD (w.extractLsb 27 24).toNat 0#16, recov := 0#1 }))

/-- R76, which the spec marks derived: each named constant is the `enc.cmd` of the field columns of R47. -/
def Obligations.NamedConstantIsItsFields : Prop :=
  ∀ (n : NamedCommand) (s : State),
    exec (.encNamed (namedSel n)) s =
      exec (.encCmd (namedFields n).rw (namedFields n).access (namedFields n).upd (namedFields n).addr (namedFields n).nd) s

/-- R77: `data.gate D` gives D if OUTCOME is 0, else 0x0000. -/
def Obligations.DataGateZeroesUnlessOk : Prop :=
  (∀ d : DataWord, encode (.dataGate d) = 0x70000000#32 ||| d.setWidth 32) ∧
  (∀ (d : DataWord) (s : State),
    exec (.dataGate d) s = .next { s with result := if s.outcome = 0#3 then d else 0x0000#16, recov := 0#1 }) ∧
  (∀ (w : OpWord) (s : State), w.extractLsb 31 28 = 0x7#4 →
    issue w s = .next
      (if w.extractLsb 27 16 ≠ 0#12 then afterIllegal 2#3 s
       else { s with result := if s.outcome = 0#3 then w.extractLsb 15 0 else 0x0000#16, recov := 0#1 }))

/-- The words of `readgated` leave in OUTCOME and RESULT the pair that the source's `readRegister` returns for that command,
data word and safety word (R78). -/
def Obligations.ReadgatedSequenceComputesReadRegister : Prop :=
  ∀ (s : State) (cmd data sw : DataWord),
    ∃ t, issueAll ((expandPseudo (.readgated cmd data sw)).map encode) s = .next t ∧
      (t.outcome, t.result) = (outcomeCode (readRegisterValue cmd data sw).1, (readRegisterValue cmd data sw).2)

/-- OUTCOME is what the most recent `safety.check` left (R18, R115): words with no `safety.check` among them keep it. So from
the reset registers OUTCOME is still NONE, and a `data.gate` gives 0x0000 (R112). -/
def Obligations.OutcomeKeptUntilNextCheck : Prop :=
  (∀ (ws : List OpWord) (s t : State), (∀ w ∈ ws, isCheckWord w = false) → issueAll ws s = .next t → t.outcome = s.outcome) ∧
  (∀ (ws : List OpWord) (s t : State) (d : DataWord), SameRegisters s State.reset → (∀ w ∈ ws, isCheckWord w = false) →
    issueAll ws s = .next t → t.outcome = 7#3 ∧ ∃ u, exec (.dataGate d) t = .next u ∧ u.result = 0x0000#16)

/-! ## The decoders and extractors -/

/-- R79: `dec15 D` gives sext_16(D[14:0]). -/
def Obligations.DecFifteenSignExtends : Prop :=
  (∀ d : DataWord, encode (.dec15 d) = 0x80000000#32 ||| d.setWidth 32) ∧
  (∀ (d : DataWord) (s : State),
    exec (.dec15 d) s = .next { s with result := (d.extractLsb 14 0).signExtend 16, recov := 0#1 }) ∧
  (∀ (w : OpWord) (s : State), w.extractLsb 31 28 = 0x8#4 →
    issue w s = .next
      (if w.extractLsb 27 16 ≠ 0#12 then afterIllegal 2#3 s
       else { s with result := (w.extractLsb 14 0).signExtend 16, recov := 0#1 }))

/-- R80, which the spec marks derived: the range of `dec15`'s value, that bit 15 of D never matters, that bits 15 and 14 of
RESULT are D[14], and the source's two vectors. -/
def Obligations.DecFifteenProperties : Prop :=
  (∀ (d : DataWord) (s t : State), exec (.dec15 d) s = .next t →
    -16384 ≤ t.result.toInt ∧ t.result.toInt ≤ 16383 ∧ exec (.dec15 (d ^^^ 0x8000#16)) s = .next t ∧
    t.result = (d.extractLsb 14 0).signExtend 16 ∧
    t.result.getLsbD 15 = d.getLsbD 14 ∧ t.result.getLsbD 14 = d.getLsbD 14) ∧
  decode15 0x4001#16 = -16383 ∧ decode15 0x0001#16 = 1

/-- R81: `dec9 D` gives sext_16(D[8:0]). -/
def Obligations.DecNineSignExtends : Prop :=
  (∀ d : DataWord, encode (.dec9 d) = 0x90000000#32 ||| d.setWidth 32) ∧
  (∀ (d : DataWord) (s : State),
    exec (.dec9 d) s = .next { s with result := (d.extractLsb 8 0).signExtend 16, recov := 0#1 }) ∧
  (∀ (w : OpWord) (s : State), w.extractLsb 31 28 = 0x9#4 →
    issue w s = .next
      (if w.extractLsb 27 16 ≠ 0#12 then afterIllegal 2#3 s
       else { s with result := (w.extractLsb 8 0).signExtend 16, recov := 0#1 }))

/-- R82, which the spec marks derived: the range of `dec9`'s value, that bits 15:9 of D never matter, that bits 15:8 of
RESULT are all D[8], and the source's two vectors. -/
def Obligations.DecNineProperties : Prop :=
  (∀ (d : DataWord) (s t : State), exec (.dec9 d) s = .next t →
    -256 ≤ t.result.toInt ∧ t.result.toInt ≤ 255 ∧ exec (.dec9 (d &&& 0x01FF#16)) s = .next t ∧
    (∀ k : Nat, 8 ≤ k → k ≤ 15 → t.result.getLsbD k = d.getLsbD 8)) ∧
  decode9 0x0101#16 = -255 ∧ decode9 0x0001#16 = 1

/-- R83: `ext.range D` gives zext_16(D[14:4]). -/
def Obligations.ExtRangeExtracts : Prop :=
  (∀ d : DataWord, encode (.extRange d) = 0xA0000000#32 ||| d.setWidth 32) ∧
  (∀ (d : DataWord) (s : State),
    exec (.extRange d) s = .next { s with result := (d.extractLsb 14 4).setWidth 16, recov := 0#1 }) ∧
  (∀ (w : OpWord) (s : State), w.extractLsb 31 28 = 0xA#4 →
    issue w s = .next
      (if w.extractLsb 27 16 ≠ 0#12 then afterIllegal 2#3 s
       else { s with result := (w.extractLsb 14 4).setWidth 16, recov := 0#1 }))

/-- R85: `ext.fir D` gives zext_16(D[15:14]). -/
def Obligations.ExtFirExtracts : Prop :=
  (∀ d : DataWord, encode (.extFir d) = 0xB0000000#32 ||| d.setWidth 32) ∧
  (∀ (d : DataWord) (s : State),
    exec (.extFir d) s = .next { s with result := (d.extractLsb 15 14).setWidth 16, recov := 0#1 }) ∧
  (∀ (w : OpWord) (s : State), w.extractLsb 31 28 = 0xB#4 →
    issue w s = .next
      (if w.extractLsb 27 16 ≠ 0#12 then afterIllegal 2#3 s
       else { s with result := (w.extractLsb 15 14).setWidth 16, recov := 0#1 }))

/-- R87: `ext.pred D` gives 3 if D[2] is 1, else 2. -/
def Obligations.ExtPredGivesDivisor : Prop :=
  (∀ d : DataWord, encode (.extPred d) = 0xC0000000#32 ||| d.setWidth 32) ∧
  (∀ (d : DataWord) (s : State),
    exec (.extPred d) s = .next { s with result := if d.extractLsb 2 2 = 1#1 then 0x0003#16 else 0x0002#16, recov := 0#1 }) ∧
  (∀ (w : OpWord) (s : State), w.extractLsb 31 28 = 0xC#4 →
    issue w s = .next
      (if w.extractLsb 27 16 ≠ 0#12 then afterIllegal 2#3 s
       else { s with result := if w.extractLsb 2 2 = 1#1 then 0x0003#16 else 0x0002#16, recov := 0#1 }))

/-- R89: `bslice HI, LO, D` gives zext_16(D[HI:LO]) for LO ≤ HI, and raises cause 4 for LO > HI. -/
def Obligations.BsliceExtracts : Prop :=
  (∀ (hi lo : BitVec 4) (d : DataWord),
    encode (.bslice hi lo d) = 0xD0000000#32 ||| hi.setWidth 32 <<< 24 ||| lo.setWidth 32 <<< 20 ||| d.setWidth 32) ∧
  (∀ (hi lo : BitVec 4) (d : DataWord) (s : State), lo.toNat ≤ hi.toNat →
    exec (.bslice hi lo d) s = .next { s with result := (d.extractLsb hi.toNat lo.toNat).setWidth 16, recov := 0#1 }) ∧
  (∀ (hi lo : BitVec 4) (d : DataWord) (s : State), hi.toNat < lo.toNat →
    exec (.bslice hi lo d) s = .next (afterIllegal 4#3 s)) ∧
  (∀ (w : OpWord) (s : State), w.extractLsb 31 28 = 0xD#4 →
    issue w s = .next
      (if w.extractLsb 19 16 ≠ 0#4 then afterIllegal 2#3 s
       else if (w.extractLsb 27 24).toNat < (w.extractLsb 23 20).toNat then afterIllegal 4#3 s
       else
        { s with
          result := ((w.extractLsb 15 0).extractLsb (w.extractLsb 27 24).toNat (w.extractLsb 23 20).toNat).setWidth 16
          recov := 0#1 }))

/-- What `bslice` extracts, as a number: the bits from LO up to HI (R6, R89). -/
def Obligations.BsliceResultAsNumber : Prop :=
  ∀ (hi lo : BitVec 4) (d : DataWord) (s t : State), lo.toNat ≤ hi.toNat → exec (.bslice hi lo d) s = .next t →
    t.result.toNat = d.toNat / 2 ^ lo.toNat % 2 ^ (hi.toNat - lo.toNat + 1)

/-- R88, which the spec marks derived: the fixed extractors are slices. -/
def Obligations.ExtractorsAreSlices : Prop :=
  (∀ (d : DataWord) (s : State), exec (.extRange d) s = exec (.bslice 14#4 4#4 d) s) ∧
  (∀ (d : DataWord) (s : State), exec (.extFir d) s = exec (.bslice 15#4 14#4 d) s) ∧
  (∀ (d : DataWord) (s t u : State), exec (.extPred d) s = .next t → exec (.bslice 2#4 2#4 d) s = .next u →
    t.result = 2#16 + u.result)

/-- R90, which the spec marks derived: the safety word's fields of R49, read with `bslice`. -/
def Obligations.SafetyFieldsReadBySlices : Prop :=
  ∀ (sw : DataWord) (s : State),
    exec (.bslice 15#4 15#4 sw) s = .next { s with result := (unpackSafety sw).resetWdog.setWidth 16, recov := 0#1 } ∧
    exec (.bslice 14#4 14#4 sw) s = .next { s with result := (unpackSafety sw).sysOk.setWidth 16, recov := 0#1 } ∧
    exec (.bslice 13#4 13#4 sw) s = .next { s with result := (unpackSafety sw).ifOk.setWidth 16, recov := 0#1 } ∧
    exec (.bslice 12#4 12#4 sw) s = .next { s with result := (unpackSafety sw).angleOk.setWidth 16, recov := 0#1 } ∧
    exec (.bslice 11#4 8#4 sw) s = .next { s with result := (unpackSafety sw).resp.setWidth 16, recov := 0#1 } ∧
    exec (.bslice 7#4 0#4 sw) s = .next { s with result := (unpackSafety sw).crc.setWidth 16, recov := 0#1 }

/-! ## The registers as a whole -/

/-- Who writes each register (R16 to R22): when an operation answers a next state, ACC is unchanged unless it is `crc.init`,
`crc.byte` or `crc.word`; OUTCOME unless it is `safety.check`; RESULT unless it is one of the ten that produce a value; a
well-formed operation changes neither ILL nor ILLC, and unless it is `safety.check` it writes 0 to RECOV. That no operation
changes what the host presents later (`t.port = s.port`) is R36 read through the model's own field (log entry 1). -/
def Obligations.EachRegisterHasItsWriters : Prop :=
  ∀ (i : Instr) (s t : State), exec i s = .next t →
    (writesAcc i = false → t.acc = s.acc) ∧
    (writesResult i = false → t.result = s.result) ∧
    (isCheck i = false → t.outcome = s.outcome) ∧
    (i.wellFormed = true → t.ill = s.ill ∧ t.illc = s.illc) ∧
    (i.wellFormed = true → isCheck i = false → t.recov = 0#1) ∧
    t.port = s.port

/-- Who reads each register (R16): what a well-formed operation writes depends on ACC only for `crc.byte`, `crc.word`,
`crc.final` and `safety.check`, on OUTCOME only for `data.gate`, and on RESULT, RECOV, ILL and ILLC for none. So an error
recorded earlier does not change how an operation behaves (R21, R91). -/
def Obligations.EachRegisterHasItsReaders : Prop :=
  ∀ (i : Instr) (s s' t t' : State), i.wellFormed = true → exec i s = .next t → exec i s' = .next t' →
    (readsAcc i = true → s.acc = s'.acc) → (readsOutcome i = true → s.outcome = s'.outcome) →
      (writesAcc i = true → t.acc = t'.acc) ∧ (writesResult i = true → t.result = t'.result) ∧
      (isCheck i = true → t.outcome = t'.outcome) ∧ t.recov = t'.recov

/-- RECOV (R19, read with log entry 8): after a word it is 1 exactly if the word is a `safety.check` whose outcome is
CRC_ERROR, or the word is illegal and RECOV was 1 already. -/
def Obligations.RecoveryRequestLastsToNextLegalWord : Prop :=
  ∀ (w : OpWord) (s t : State), issue w s = .next t →
    (t.recov = 1#1 ↔
      (∃ d, decode w = .legal (.safetyCheck d) ∧ t.outcome = 4#3) ∨ (legalWord w = false ∧ s.recov = 1#1))

/-- The bounds of the results (R66, R83, R85, R87): `crc.final` at most 0x00FF, `ext.range` at most 2047, `ext.fir` at most 3,
`ext.pred` 2 or 3. -/
def Obligations.ResultBounds : Prop :=
  (∀ s t : State, exec .crcFinal s = .next t → t.result.toNat ≤ 0xFF) ∧
  (∀ (d : DataWord) (s t : State), exec (.extRange d) s = .next t → t.result.toNat ≤ 2047) ∧
  (∀ (d : DataWord) (s t : State), exec (.extFir d) s = .next t → t.result.toNat ≤ 3) ∧
  (∀ (d : DataWord) (s t : State), exec (.extPred d) s = .next t → t.result = 2#16 ∨ t.result = 3#16)

/-- The invariant holds after reset. -/
def Obligations.ResetSatisfiesInv : Prop := Inv State.reset

/-- Every step keeps the invariant: OUTCOME is never 5 or 6 and ILLC never 5 to 7 (R18, R22, 93_implementation_defined.md
section 3), ILLC is 0 exactly while ILL is 0, and RECOV is 1 only where OUTCOME is CRC_ERROR. -/
def Obligations.StepKeepsInv : Prop :=
  ∀ s t : State, Inv s → step s = .next t → Inv t

/-! ## The assembler -/

/-- Given a mnemonic and numeric operands, the assembler answers an operation exactly when it is a well-formed operation of that
mnemonic with those operands: it never wraps or truncates an operand (R13, R58). That a wrong number of operands is refused
is the model's choice (log entry 11). -/
def Obligations.AssemblerAcceptsExactlyWhatFits : Prop :=
  ∀ (o : Opcode) (ns : List Nat) (i : Instr),
    asmOperation o (ns.map .number) = .ok i ↔ i.opcode = o ∧ operandValues i = ns ∧ i.wellFormed = true

/-- The pseudo-instructions are the words of their expansions (R59), and each word is legal and decodes to its operation. R59
gives `validate` for 1 to 8 register words; that its expansion is stated for any number is the model's choice (log entry 13). -/
def Obligations.PseudoExpansionsDecode : Prop :=
  (∀ (addr : BitVec 6) (nd : BitVec 4), expandPseudo (.encRead addr nd) = [.encCmd 1#1 0#4 0#1 addr nd]) ∧
  (∀ (addr : BitVec 6) (nd : BitVec 4), expandPseudo (.encReadupd addr nd) = [.encCmd 1#1 0#4 1#1 addr nd]) ∧
  (∀ (cmd sw : DataWord) (regs : List DataWord),
    expandPseudo (.validate cmd sw regs) = [.crcInit, .crcWord cmd] ++ regs.map .crcWord ++ [.safetyCheck sw]) ∧
  (∀ cmd data sw : DataWord,
    expandPseudo (.readgated cmd data sw) = expandPseudo (.validate cmd sw [data]) ++ [.dataGate data]) ∧
  (∀ (p : Pseudo), ∀ i ∈ expandPseudo p, decode (encode i) = .legal i)
end

