-- ==== Sys2Proof/Laws/Decode.lean ====
section
/-! SUPPORT. What the decoder does with a word, by its opcode; the encoder's fields; and that no two rows of the opcode table
overlap. -/

namespace Sys2Proof

/-- A bit of a word, from the value of a field that holds it. -/
theorem getLsbD_of_extractLsb {n hi lo : Nat} {w : BitVec n} {c : BitVec (hi - lo + 1)} (h : w.extractLsb hi lo = c)
    (k : Nat) (hk : k ≤ hi - lo) : w.getLsbD (lo + k) = c.getLsbD k := by
  subst h
  simp [Nat.lt_succ_of_le hk]

/-- A field of a word is 0 when the word's bits are masked away there. -/
theorem extractLsb_eq_zero_iff {n hi lo : Nat} (w : BitVec n) :
    w.extractLsb hi lo = 0#(hi - lo + 1) ↔ ∀ k ≤ hi - lo, w.getLsbD (lo + k) = false := by
  constructor
  · intro h k hk
    simpa using getLsbD_of_extractLsb h k hk
  · intro h
    apply BitVec.eq_of_getLsbD_eq
    intro k hk
    simp [h k (by omega)]

/-- Masking a field's bits and reading the field say the same about zero: `m` is the mask of bits hi to lo. -/
theorem and_mask_eq_zero_iff {hi lo : Nat} (w m : OpWord) (hhi : hi < 32)
    (hm : ∀ k < 32, m.getLsbD k = (decide (lo ≤ k) && decide (k ≤ hi))) (hle : lo ≤ hi) :
    w &&& m = 0#32 ↔ w.extractLsb hi lo = 0#(hi - lo + 1) := by
  rw [extractLsb_eq_zero_iff]
  constructor
  · intro h k hk
    have hb := congrArg (·.getLsbD (lo + k)) h
    have hm' : m.getLsbD (lo + k) = true := by
      rw [hm (lo + k) (by omega)]
      simp
      omega
    simpa [BitVec.getLsbD_and, hm'] using hb
  · intro h
    apply BitVec.eq_of_getLsbD_eq
    intro k hk
    rw [BitVec.getLsbD_and, hm k hk]
    by_cases hk' : lo ≤ k ∧ k ≤ hi
    · have hb := h (k - lo) (by omega)
      rw [show lo + (k - lo) = k by omega] at hb
      simp [hb]
    · simp
      intro _ _
      omega

/-- Every operation is found again by its own code. -/
@[simp] theorem Opcode.ofCode_code (o : Opcode) : Opcode.ofCode o.code = some o := by
  cases o <;> decide

/-- The codes are those of the table, and no others (R39, R54). -/
theorem Opcode.ofCode_eq_some (c : BitVec 4) (o : Opcode) : Opcode.ofCode c = some o ↔ o.code = c := by
  constructor
  · intro h
    simpa using List.find?_some h
  · rintro rfl
    exact Opcode.ofCode_code o

/-- No operation has code 0xE or 0xF (R54). -/
theorem Opcode.ofCode_eq_none (c : BitVec 4) : Opcode.ofCode c = none ↔ 14 ≤ c.toNat := by
  revert c
  decide

/-- A reserved opcode decides first (R53 test 1). -/
theorem decode_reservedOpcode {w : OpWord} (h : 14 ≤ (opcField w).toNat) : decode w = .illegal .reservedOpcode := by
  simp [decode, (Opcode.ofCode_eq_none _).2 h]

/-- A word with an operation's code: the reserved bits decide, then the range of its operands (R53 tests 2 to 4). -/
theorem decode_of_code {w : OpWord} {o : Opcode} (h : opcField w = o.code) :
    decode w =
      if o.format.reservedClear w then
        match (readOperands o w).rangeCause with
        | none => .legal (readOperands o w)
        | some c => .illegal c
      else .illegal .reservedField := by
  have hc : Opcode.ofCode (opcField w) = some o := by rw [h, Opcode.ofCode_code]
  unfold decode
  generalize Opcode.ofCode (opcField w) = found at hc
  subst hc
  rfl

/-- The fields read are an operation of that code. -/
@[simp] theorem readOperands_opcode (o : Opcode) (w : OpWord) : (readOperands o w).opcode = o := by
  cases o <;> rfl

/-- The third test of R53 passes exactly on well-formed operands (R56). -/
theorem rangeCause_eq_none (i : Instr) : i.rangeCause = none ↔ i.wellFormed = true := by
  cases i <;> simp [Instr.rangeCause, Instr.wellFormed, Config.maxNamedSelector]

/-- What it takes for a word to be legal. -/
theorem decode_eq_legal {w : OpWord} {i : Instr} (h : decode w = .legal i) :
    ∃ o : Opcode, opcField w = o.code ∧ o.format.reservedClear w = true ∧ i = readOperands o w ∧ i.wellFormed = true := by
  cases hc : Opcode.ofCode (opcField w) with
  | none => simp [decode, hc] at h
  | some o =>
    have hw := ((Opcode.ofCode_eq_some _ _).1 hc).symm
    rw [decode_of_code hw] at h
    split at h
    · rename_i hr
      split at h
      · rename_i hn
        cases h
        exact ⟨o, hw, hr, rfl, (rangeCause_eq_none _).1 hn⟩
      · cases h
    · cases h

/-- Only well-formed operations are decoded. -/
theorem decode_wellFormed {w : OpWord} {i : Instr} (h : decode w = .legal i) : i.wellFormed = true := by
  obtain ⟨_, _, _, _, hw⟩ := decode_eq_legal h
  exact hw

/-- What makes a word decode to a given well-formed operation. -/
theorem decode_legal_of_fields {w : OpWord} {i : Instr} (hc : opcField w = i.opcode.code)
    (hr : i.opcode.format.reservedClear w = true) (hi : readOperands i.opcode w = i) (hw : i.wellFormed = true) :
    decode w = .legal i := by
  rw [decode_of_code hc, hi, (rangeCause_eq_none i).2 hw]
  simp [hr]

/-- No two rows of the opcode table overlap: no word matches both. -/
theorem opcode_rows_disjoint :
    Opcode.all.Pairwise fun a b => a.matchMask &&& b.matchMask &&& (a.matchBits ^^^ b.matchBits) ≠ 0#32 := by
  decide

end Sys2Proof
end

