-- ==== Sys2Proof/Laws/State.lean ====
section
/-! SUPPORT. One lemma per field of State and update: what each shared write leaves in each register. -/

namespace Sys2Proof.Machine.State

@[simp] theorem setAcc_acc (s : State) (v : BitVec 8) : (s.setAcc v).acc = v := rfl
@[simp] theorem setAcc_result (s : State) (v : BitVec 8) : (s.setAcc v).result = s.result := rfl
@[simp] theorem setAcc_outcome (s : State) (v : BitVec 8) : (s.setAcc v).outcome = s.outcome := rfl
@[simp] theorem setAcc_recov (s : State) (v : BitVec 8) : (s.setAcc v).recov = s.recov := rfl
@[simp] theorem setAcc_ill (s : State) (v : BitVec 8) : (s.setAcc v).ill = s.ill := rfl
@[simp] theorem setAcc_illc (s : State) (v : BitVec 8) : (s.setAcc v).illc = s.illc := rfl
@[simp] theorem setAcc_port (s : State) (v : BitVec 8) : (s.setAcc v).port = s.port := rfl

@[simp] theorem setResult_acc (s : State) (v : BitVec 16) : (s.setResult v).acc = s.acc := rfl
@[simp] theorem setResult_result (s : State) (v : BitVec 16) : (s.setResult v).result = v := rfl
@[simp] theorem setResult_outcome (s : State) (v : BitVec 16) : (s.setResult v).outcome = s.outcome := rfl
@[simp] theorem setResult_recov (s : State) (v : BitVec 16) : (s.setResult v).recov = s.recov := rfl
@[simp] theorem setResult_ill (s : State) (v : BitVec 16) : (s.setResult v).ill = s.ill := rfl
@[simp] theorem setResult_illc (s : State) (v : BitVec 16) : (s.setResult v).illc = s.illc := rfl
@[simp] theorem setResult_port (s : State) (v : BitVec 16) : (s.setResult v).port = s.port := rfl

@[simp] theorem setOutcome_acc (s : State) (v : BitVec 3) : (s.setOutcome v).acc = s.acc := rfl
@[simp] theorem setOutcome_result (s : State) (v : BitVec 3) : (s.setOutcome v).result = s.result := rfl
@[simp] theorem setOutcome_outcome (s : State) (v : BitVec 3) : (s.setOutcome v).outcome = v := rfl
@[simp] theorem setOutcome_recov (s : State) (v : BitVec 3) : (s.setOutcome v).recov = s.recov := rfl
@[simp] theorem setOutcome_ill (s : State) (v : BitVec 3) : (s.setOutcome v).ill = s.ill := rfl
@[simp] theorem setOutcome_illc (s : State) (v : BitVec 3) : (s.setOutcome v).illc = s.illc := rfl
@[simp] theorem setOutcome_port (s : State) (v : BitVec 3) : (s.setOutcome v).port = s.port := rfl

@[simp] theorem setRecov_acc (s : State) (v : BitVec 1) : (s.setRecov v).acc = s.acc := rfl
@[simp] theorem setRecov_result (s : State) (v : BitVec 1) : (s.setRecov v).result = s.result := rfl
@[simp] theorem setRecov_outcome (s : State) (v : BitVec 1) : (s.setRecov v).outcome = s.outcome := rfl
@[simp] theorem setRecov_recov (s : State) (v : BitVec 1) : (s.setRecov v).recov = v := rfl
@[simp] theorem setRecov_ill (s : State) (v : BitVec 1) : (s.setRecov v).ill = s.ill := rfl
@[simp] theorem setRecov_illc (s : State) (v : BitVec 1) : (s.setRecov v).illc = s.illc := rfl
@[simp] theorem setRecov_port (s : State) (v : BitVec 1) : (s.setRecov v).port = s.port := rfl

@[simp] theorem setIll_acc (s : State) (v : BitVec 1) : (s.setIll v).acc = s.acc := rfl
@[simp] theorem setIll_result (s : State) (v : BitVec 1) : (s.setIll v).result = s.result := rfl
@[simp] theorem setIll_outcome (s : State) (v : BitVec 1) : (s.setIll v).outcome = s.outcome := rfl
@[simp] theorem setIll_recov (s : State) (v : BitVec 1) : (s.setIll v).recov = s.recov := rfl
@[simp] theorem setIll_ill (s : State) (v : BitVec 1) : (s.setIll v).ill = v := rfl
@[simp] theorem setIll_illc (s : State) (v : BitVec 1) : (s.setIll v).illc = s.illc := rfl
@[simp] theorem setIll_port (s : State) (v : BitVec 1) : (s.setIll v).port = s.port := rfl

@[simp] theorem setIllc_acc (s : State) (v : BitVec 3) : (s.setIllc v).acc = s.acc := rfl
@[simp] theorem setIllc_result (s : State) (v : BitVec 3) : (s.setIllc v).result = s.result := rfl
@[simp] theorem setIllc_outcome (s : State) (v : BitVec 3) : (s.setIllc v).outcome = s.outcome := rfl
@[simp] theorem setIllc_recov (s : State) (v : BitVec 3) : (s.setIllc v).recov = s.recov := rfl
@[simp] theorem setIllc_ill (s : State) (v : BitVec 3) : (s.setIllc v).ill = s.ill := rfl
@[simp] theorem setIllc_illc (s : State) (v : BitVec 3) : (s.setIllc v).illc = v := rfl
@[simp] theorem setIllc_port (s : State) (v : BitVec 3) : (s.setIllc v).port = s.port := rfl

@[simp] theorem setPort_acc (s : State) (v : List HostEvent) : (s.setPort v).acc = s.acc := rfl
@[simp] theorem setPort_result (s : State) (v : List HostEvent) : (s.setPort v).result = s.result := rfl
@[simp] theorem setPort_outcome (s : State) (v : List HostEvent) : (s.setPort v).outcome = s.outcome := rfl
@[simp] theorem setPort_recov (s : State) (v : List HostEvent) : (s.setPort v).recov = s.recov := rfl
@[simp] theorem setPort_ill (s : State) (v : List HostEvent) : (s.setPort v).ill = s.ill := rfl
@[simp] theorem setPort_illc (s : State) (v : List HostEvent) : (s.setPort v).illc = s.illc := rfl
@[simp] theorem setPort_port (s : State) (v : List HostEvent) : (s.setPort v).port = v := rfl

@[simp] theorem finishAcc_acc (s : State) (v : BitVec 8) : (s.finishAcc v).acc = v := rfl
@[simp] theorem finishAcc_result (s : State) (v : BitVec 8) : (s.finishAcc v).result = s.result := rfl
@[simp] theorem finishAcc_outcome (s : State) (v : BitVec 8) : (s.finishAcc v).outcome = s.outcome := rfl
@[simp] theorem finishAcc_recov (s : State) (v : BitVec 8) : (s.finishAcc v).recov = 0#1 := rfl
@[simp] theorem finishAcc_ill (s : State) (v : BitVec 8) : (s.finishAcc v).ill = s.ill := rfl
@[simp] theorem finishAcc_illc (s : State) (v : BitVec 8) : (s.finishAcc v).illc = s.illc := rfl
@[simp] theorem finishAcc_port (s : State) (v : BitVec 8) : (s.finishAcc v).port = s.port := rfl

@[simp] theorem finishResult_acc (s : State) (v : BitVec 16) : (s.finishResult v).acc = s.acc := rfl
@[simp] theorem finishResult_result (s : State) (v : BitVec 16) : (s.finishResult v).result = v := rfl
@[simp] theorem finishResult_outcome (s : State) (v : BitVec 16) : (s.finishResult v).outcome = s.outcome := rfl
@[simp] theorem finishResult_recov (s : State) (v : BitVec 16) : (s.finishResult v).recov = 0#1 := rfl
@[simp] theorem finishResult_ill (s : State) (v : BitVec 16) : (s.finishResult v).ill = s.ill := rfl
@[simp] theorem finishResult_illc (s : State) (v : BitVec 16) : (s.finishResult v).illc = s.illc := rfl
@[simp] theorem finishResult_port (s : State) (v : BitVec 16) : (s.finishResult v).port = s.port := rfl

/-- A finished CRC feed as one record. -/
theorem finishAcc_eq (s : State) (v : BitVec 8) : s.finishAcc v = { s with acc := v, recov := 0#1 } := rfl

/-- A finished result as one record. -/
theorem finishResult_eq (s : State) (v : BitVec 16) : s.finishResult v = { s with result := v, recov := 0#1 } := rfl

@[simp] theorem outputs_acc (s : State) : s.outputs.acc = s.acc := rfl
@[simp] theorem outputs_result (s : State) : s.outputs.result = s.result := rfl
@[simp] theorem outputs_outcome (s : State) : s.outputs.outcome = s.outcome := rfl
@[simp] theorem outputs_recov (s : State) : s.outputs.recov = s.recov := rfl
@[simp] theorem outputs_ill (s : State) : s.outputs.ill = s.ill := rfl
@[simp] theorem outputs_illc (s : State) : s.outputs.illc = s.illc := rfl

@[simp] theorem present_acc (s : State) (ws : List OpWord) : (s.present ws).acc = s.acc := rfl
@[simp] theorem present_result (s : State) (ws : List OpWord) : (s.present ws).result = s.result := rfl
@[simp] theorem present_outcome (s : State) (ws : List OpWord) : (s.present ws).outcome = s.outcome := rfl
@[simp] theorem present_recov (s : State) (ws : List OpWord) : (s.present ws).recov = s.recov := rfl
@[simp] theorem present_ill (s : State) (ws : List OpWord) : (s.present ws).ill = s.ill := rfl
@[simp] theorem present_illc (s : State) (ws : List OpWord) : (s.present ws).illc = s.illc := rfl
@[simp] theorem present_port (s : State) (ws : List OpWord) :
    (s.present ws).port = ws.map HostEvent.op ++ s.port := rfl

@[simp] theorem reset_acc : State.reset.acc = 0xFF#8 := rfl
@[simp] theorem reset_result : State.reset.result = 0x0000#16 := rfl
@[simp] theorem reset_outcome : State.reset.outcome = 7#3 := rfl
@[simp] theorem reset_recov : State.reset.recov = 0#1 := rfl
@[simp] theorem reset_ill : State.reset.ill = 0#1 := rfl
@[simp] theorem reset_illc : State.reset.illc = 0#3 := rfl
@[simp] theorem reset_port : State.reset.port = [] := rfl

@[simp] theorem outputs_setPort (s : State) (p : List HostEvent) : (s.setPort p).outputs = s.outputs := rfl

/-- The ports show all six registers and nothing else. -/
theorem outputs_eq_iff (s t : State) :
    s.outputs = t.outputs ↔ s.acc = t.acc ∧ s.result = t.result ∧ s.outcome = t.outcome ∧ s.recov = t.recov ∧
      s.ill = t.ill ∧ s.illc = t.illc := by
  simp [State.outputs]

end Sys2Proof.Machine.State
end

