-- ==== Sys2Proof/Laws/Ops.lean ====
section
/-! SUPPORT. What each shared operation does, said once: an illegal operation, reset, the port, and the CRC step. -/

namespace Sys2Proof.Machine

/-! ## An illegal operation (R99) -/

/-- The whole effect of an illegal operation, as one record. -/
theorem raiseIllegal_eq (c : IllegalCause) (s : State) :
    raiseIllegal c s = { s with ill := 1#1, illc := if s.ill = 0#1 then causeCode c else s.illc } := rfl

@[simp] theorem raiseIllegal_acc (c : IllegalCause) (s : State) : (raiseIllegal c s).acc = s.acc := rfl
@[simp] theorem raiseIllegal_result (c : IllegalCause) (s : State) : (raiseIllegal c s).result = s.result := rfl
@[simp] theorem raiseIllegal_outcome (c : IllegalCause) (s : State) : (raiseIllegal c s).outcome = s.outcome := rfl
@[simp] theorem raiseIllegal_recov (c : IllegalCause) (s : State) : (raiseIllegal c s).recov = s.recov := rfl
@[simp] theorem raiseIllegal_ill (c : IllegalCause) (s : State) : (raiseIllegal c s).ill = 1#1 := rfl
@[simp] theorem raiseIllegal_illc (c : IllegalCause) (s : State) :
    (raiseIllegal c s).illc = if s.ill = 0#1 then causeCode c else s.illc := rfl
@[simp] theorem raiseIllegal_port (c : IllegalCause) (s : State) : (raiseIllegal c s).port = s.port := rfl

/-- A cause's code is one of 1 to 4 (R22). -/
theorem causeCode_range (c : IllegalCause) : 1 ≤ (causeCode c).toNat ∧ (causeCode c).toNat ≤ 4 := by
  cases c <;> decide

theorem causeCode_ne_zero (c : IllegalCause) : causeCode c ≠ 0#3 := by
  cases c <;> decide

/-! ## Reset and the port -/

/-- Reset leaves the registers of R28 and the rest of what the host presents. -/
theorem applyReset_eq (s : State) : applyReset s = { State.reset with port := s.port } := rfl

@[simp] theorem applyReset_outputs (s : State) : (applyReset s).outputs = State.reset.outputs := rfl
@[simp] theorem applyReset_port (s : State) : (applyReset s).port = s.port := rfl

theorem takeEvent_nil {s : State} (h : s.port = []) : takeEvent s = none := by
  simp [takeEvent, h]

theorem takeEvent_cons {s : State} {e : HostEvent} {rest : List HostEvent} (h : s.port = e :: rest) :
    takeEvent s = some (e, s.setPort rest) := by
  simp [takeEvent, h]

/-! ## The CRC step (R60) -/

/-- The step sees the accumulator and the byte only through their exclusive or. -/
theorem crcStep_eq (a b : Byte) : crcStep a b = crcShifts 8 (a ^^^ b) := rfl

@[simp] theorem crcFold_nil (a : Byte) : crcFold a [] = a := rfl

@[simp] theorem crcFold_cons (a b : Byte) (bs : List Byte) : crcFold a (b :: bs) = crcFold (crcStep a b) bs := rfl

theorem crcFold_append (a : Byte) (xs ys : List Byte) : crcFold a (xs ++ ys) = crcFold (crcFold a xs) ys :=
  List.foldl_append

/-- A word feeds its high byte and then its low byte (R65). -/
theorem crcFold_wordBytes (a : Byte) (d : DataWord) :
    crcFold a (wordBytes d) = crcStep (crcStep a (d.extractLsb 15 8)) (d.extractLsb 7 0) := rfl

/-- The shift backwards: bit 0 of a shifted byte tells whether bit 7 was set, since the polynomial's bit 0 is 1. -/
def crcUnshift (y : Byte) : Byte := if y.getLsbD 0 then ((y ^^^ crcPoly) >>> 1) ||| 0x80#8 else y >>> 1

theorem crcUnshift_crcShift : ∀ x : Byte, crcUnshift (crcShift x) = x := by
  decide

/-- One shift loses nothing. -/
theorem crcShift_injective : Function.Injective crcShift :=
  Function.LeftInverse.injective crcUnshift_crcShift

theorem crcShifts_injective (n : Nat) : Function.Injective (crcShifts n) := by
  induction n with
  | zero => exact fun _ _ h => h
  | succ n ih => exact fun _ _ h => crcShift_injective (ih h)

/-- Two different bytes fed to one accumulator leave different accumulators. -/
theorem crcStep_right_injective (a : Byte) : Function.Injective (crcStep a) := fun b c h => by
  have := crcShifts_injective 8 h
  simpa using this

/-- Two different accumulators stay different when the same byte is fed. -/
theorem crcStep_left_injective (b : Byte) : Function.Injective (fun a => crcStep a b) := fun a c h => by
  have := crcShifts_injective 8 h
  simpa using this

theorem crcFold_injective (bs : List Byte) : Function.Injective (fun a => crcFold a bs) := by
  induction bs with
  | nil => exact fun _ _ h => h
  | cons b bs ih => exact fun _ _ h => crcStep_left_injective b (ih h)

end Sys2Proof.Machine
end

