-- ==== Sys2Proof/Laws/Exec.lean ====
section
/-! SUPPORT. One lemma per operation: the next state it answers, as one record; and what every operation has in common. -/

namespace Sys2Proof.Machine

open Sys2Proof.Safety

theorem execCrcInit_eq (s : State) : execCrcInit s = .next { s with acc := 0xFF#8, recov := 0#1 } := rfl

theorem execCrcByte_eq (b : Byte) (s : State) :
    execCrcByte b s = .next { s with acc := crcStep s.acc b, recov := 0#1 } := rfl

theorem execCrcWord_eq (d : DataWord) (s : State) :
    execCrcWord d s = .next { s with acc := crcFold s.acc (wordBytes d), recov := 0#1 } := rfl

theorem execCrcFinal_eq (s : State) :
    execCrcFinal s = .next { s with result := (crcComplement s.acc).setWidth 16, recov := 0#1 } := rfl

theorem execSafetyCheck_eq (d : DataWord) (s : State) :
    execSafetyCheck d s = .next
      { s with
        outcome := outcomeCode (checkOutcome (crcComplement s.acc) (unpackSafety d))
        recov := recoveryRequest (checkOutcome (crcComplement s.acc) (unpackSafety d)) } := rfl

theorem execEncCmd_eq (rw : BitVec 1) (access : BitVec 4) (upd : BitVec 1) (addr : BitVec 6) (nd : BitVec 4) (s : State) :
    execEncCmd rw access upd addr nd s = .next
      { s with result := packCommand ⟨rw, access, upd, addr, nd⟩, recov := 0#1 } := rfl

@[simp] theorem namedOfSel_namedSel (n : NamedCommand) : namedOfSel (namedSel n) = some n := by
  cases n <;> decide

/-- A selector above 10 names no command (R44). -/
theorem namedOfSel_eq_none (sel : BitVec 4) : namedOfSel sel = none ↔ 10 < sel.toNat := by
  revert sel
  decide

/-- A selector of 0 to 10 names one. -/
theorem namedOfSel_eq_some {sel : BitVec 4} (h : sel.toNat ≤ 10) : ∃ n, namedOfSel sel = some n := by
  cases hn : namedOfSel sel with
  | some n => exact ⟨n, rfl⟩
  | none => exact absurd ((namedOfSel_eq_none sel).1 hn) (by omega)

theorem execEncNamed_eq (n : NamedCommand) (s : State) :
    execEncNamed (namedSel n) s = .next { s with result := namedValue n, recov := 0#1 } := by
  simp [execEncNamed, State.finishResult_eq]

theorem execEncNamed_illegal {sel : BitVec 4} (h : 10 < sel.toNat) (s : State) :
    execEncNamed sel s = .next (raiseIllegal .selectorOutOfRange s) := by
  simp [execEncNamed, (namedOfSel_eq_none sel).2 h]

theorem execDataGate_eq (d : DataWord) (s : State) :
    execDataGate d s = .next { s with result := if s.outcome = 0#3 then d else 0x0000#16, recov := 0#1 } := rfl

theorem execDec15_eq (d : DataWord) (s : State) :
    execDec15 d s = .next { s with result := signedResult (decode15 d), recov := 0#1 } := rfl

theorem execDec9_eq (d : DataWord) (s : State) :
    execDec9 d s = .next { s with result := signedResult (decode9 d), recov := 0#1 } := rfl

theorem execExtRange_eq (d : DataWord) (s : State) :
    execExtRange d s = .next { s with result := rangeField d, recov := 0#1 } := rfl

theorem execExtFir_eq (d : DataWord) (s : State) :
    execExtFir d s = .next { s with result := firField d, recov := 0#1 } := rfl

theorem execExtPred_eq (d : DataWord) (s : State) :
    execExtPred d s = .next { s with result := predConstant d, recov := 0#1 } := rfl

theorem execBslice_eq {hi lo : BitVec 4} (h : lo.toNat ≤ hi.toNat) (d : DataWord) (s : State) :
    execBslice hi lo d s = .next { s with result := slice hi.toNat lo.toNat d, recov := 0#1 } := by
  simp [execBslice, Nat.not_lt.2 h, State.finishResult_eq]

theorem execBslice_illegal {hi lo : BitVec 4} (h : hi.toNat < lo.toNat) (d : DataWord) (s : State) :
    execBslice hi lo d s = .next (raiseIllegal .sliceReversed s) := by
  simp [execBslice, h]

/-- The values a check can leave: RECOV is 1 exactly with CRC_ERROR's code, and the code is 0 to 4 (R18, R19). -/
theorem check_values (o : ErrorOutcome) :
    (outcomeCode o).toNat ≤ 4 ∧ (recoveryRequest o = 1#1 ↔ outcomeCode o = 4#3) := by
  cases o <;> decide

/-- Everything an operation can do, for a well-formed one: it answers a next state of one of three shapes (R16, R19, R20). -/
theorem exec_cases (i : Instr) (s : State) (hw : i.wellFormed = true) :
    (writesAcc i = true ∧ ∃ a, exec i s = .next { s with acc := a, recov := 0#1 }) ∨
    (writesResult i = true ∧ ∃ r, exec i s = .next { s with result := r, recov := 0#1 }) ∨
    (isCheck i = true ∧ ∃ o : ErrorOutcome,
      exec i s = .next { s with outcome := outcomeCode o, recov := recoveryRequest o }) := by
  cases i with
  | crcInit => exact .inl ⟨rfl, _, rfl⟩
  | crcByte b => exact .inl ⟨rfl, _, rfl⟩
  | crcWord d => exact .inl ⟨rfl, _, rfl⟩
  | crcFinal => exact .inr (.inl ⟨rfl, _, rfl⟩)
  | safetyCheck d => exact .inr (.inr ⟨rfl, _, rfl⟩)
  | encCmd rw access upd addr nd => exact .inr (.inl ⟨rfl, _, rfl⟩)
  | encNamed sel =>
    obtain ⟨n, hn⟩ := namedOfSel_eq_some (sel := sel) (by simpa [Instr.wellFormed, Config.maxNamedSelector] using hw)
    exact .inr (.inl ⟨rfl, namedValue n, by simp [exec, execEncNamed, hn, State.finishResult_eq]⟩)
  | dataGate d => exact .inr (.inl ⟨rfl, _, rfl⟩)
  | dec15 d => exact .inr (.inl ⟨rfl, _, rfl⟩)
  | dec9 d => exact .inr (.inl ⟨rfl, _, rfl⟩)
  | extRange d => exact .inr (.inl ⟨rfl, _, rfl⟩)
  | extFir d => exact .inr (.inl ⟨rfl, _, rfl⟩)
  | extPred d => exact .inr (.inl ⟨rfl, _, rfl⟩)
  | bslice hi lo d =>
    exact .inr (.inl ⟨rfl, _, execBslice_eq (by simpa [Instr.wellFormed] using hw) d s⟩)

/-- An operation whose operands the spec calls illegal raises IllegalOperation, and does nothing else (R75, R89). -/
theorem exec_ill_formed (i : Instr) (s : State) (hw : i.wellFormed = false) :
    ∃ c, i.rangeCause = some c ∧ exec i s = .next (raiseIllegal c s) := by
  cases i with
  | encNamed sel =>
    have h : 10 < sel.toNat := by simpa [Instr.wellFormed, Config.maxNamedSelector] using hw
    exact ⟨.selectorOutOfRange, by simp [Instr.rangeCause, h], execEncNamed_illegal h s⟩
  | bslice hi lo d =>
    have h : hi.toNat < lo.toNat := by simpa [Instr.wellFormed] using hw
    exact ⟨.sliceReversed, by simp [Instr.rangeCause, h], execBslice_illegal h d s⟩
  | _ => cases hw

/-- No operation reads or writes what stands on the port: with another port it does the same. -/
theorem exec_setPort {i : Instr} {s t : State} (p : List HostEvent) (h : exec i s = .next t) :
    exec i (s.setPort p) = .next (t.setPort p) := by
  cases i with
  | encNamed sel =>
    simp only [exec, execEncNamed] at h ⊢
    cases hn : namedOfSel sel <;> rw [hn] at h <;> cases h <;> rfl
  | bslice hi lo d =>
    simp only [exec, execBslice] at h ⊢
    by_cases hc : hi.toNat < lo.toNat
    · rw [if_pos hc] at h ⊢
      cases h
      rfl
    · rw [if_neg hc] at h ⊢
      cases h
      rfl
  | _ =>
    cases h
    rfl

end Sys2Proof.Machine
end

