-- ==== Sys2Proof/Laws/PerInstr.lean ====
section
/-! SUPPORT. A statement for every operation as syntax: its word carries its own opcode, and zeros in the reserved bits of its
format (R40 to R45, R58). -/

namespace Sys2Proof.Laws.EncodingShape

/-- The word of an operation has the operation's OPC, and every bit its format reserves is 0. -/
def Statement (i : Instr) : Prop :=
  opcField (encode i) = i.opcode.code ∧ i.opcode.format.reservedClear (encode i) = true

/-- OPC of a word whose other bits lie below bit 28. -/
theorem opc_of_or (v x : OpWord) (h : x.toNat < 2 ^ 28) : opcField (v ||| x) = opcField v := by
  apply BitVec.eq_of_getLsbD_eq
  intro k hk
  have hx : x.getLsbD (28 + k) = false :=
    Nat.testBit_lt_two_pow (Nat.lt_of_lt_of_le h (Nat.pow_le_pow_right (by decide) (by omega)))
  simp [opcField, hx]

theorem setWidth_lt {n : Nat} (d : BitVec n) (h : n ≤ 28) : (d.setWidth 32).toNat < 2 ^ 28 := by
  have : d.toNat < 2 ^ 28 := Nat.lt_of_lt_of_le d.isLt (Nat.pow_le_pow_right (by decide) h)
  rw [BitVec.toNat_setWidth]
  exact Nat.lt_of_le_of_lt (Nat.mod_le _ _) this

/-- The reserved bits of a word with a 16-bit operand (R42). -/
theorem reserved_data (v : OpWord) (d : DataWord) (h : v.extractLsb 27 16 = 0#12) :
    (v ||| d.setWidth 32).extractLsb 27 16 = 0#12 := by
  refine (extractLsb_eq_zero_iff _).2 fun k hk => ?_
  have hv : v.getLsbD (16 + k) = false := (extractLsb_eq_zero_iff v).1 h k hk
  simp [hv]

/-- A word with a 16-bit operand. -/
theorem data_shape {i : Instr} {v : OpWord} {d : DataWord} (he : encode i = v ||| d.setWidth 32)
    (hf : i.opcode.format = .D) (hc : opcField v = i.opcode.code) (hr : v.extractLsb 27 16 = 0#12) : Statement i := by
  refine ⟨by rw [he, opc_of_or v _ (setWidth_lt d (by decide)), hc], ?_⟩
  rw [hf, he]
  simpa [Format.reservedClear] using reserved_data v d hr

theorem crcInit : Statement .crcInit := by
  constructor <;> decide

theorem crcByte (b : Byte) : Statement (.crcByte b) := by
  refine ⟨opc_of_or _ _ (setWidth_lt b (by decide)), ?_⟩
  simp only [Instr.opcode, Opcode.format, Format.reservedClear, encode, beq_iff_eq]
  apply BitVec.eq_of_getLsbD_eq
  intro k hk
  interval_cases k <;> simp

theorem crcWord (d : DataWord) : Statement (.crcWord d) := data_shape rfl rfl rfl rfl

theorem crcFinal : Statement .crcFinal := by
  constructor <;> decide

theorem safetyCheck (d : DataWord) : Statement (.safetyCheck d) := data_shape rfl rfl rfl rfl

theorem encCmd (rw : BitVec 1) (access : BitVec 4) (upd : BitVec 1) (addr : BitVec 6) (nd : BitVec 4) :
    Statement (.encCmd rw access upd addr nd) := by
  constructor
  · apply BitVec.eq_of_getLsbD_eq
    intro k hk
    interval_cases k <;> simp [opcField, encode, Instr.opcode, Opcode.code]
  · simp only [Instr.opcode, Opcode.format, Format.reservedClear, encode, beq_iff_eq]
    apply BitVec.eq_of_getLsbD_eq
    intro k hk
    interval_cases k <;> simp

theorem encNamed (sel : BitVec 4) : Statement (.encNamed sel) := by
  revert sel
  unfold Statement
  decide

theorem dataGate (d : DataWord) : Statement (.dataGate d) := data_shape rfl rfl rfl rfl

theorem dec15 (d : DataWord) : Statement (.dec15 d) := data_shape rfl rfl rfl rfl

theorem dec9 (d : DataWord) : Statement (.dec9 d) := data_shape rfl rfl rfl rfl

theorem extRange (d : DataWord) : Statement (.extRange d) := data_shape rfl rfl rfl rfl

theorem extFir (d : DataWord) : Statement (.extFir d) := data_shape rfl rfl rfl rfl

theorem extPred (d : DataWord) : Statement (.extPred d) := data_shape rfl rfl rfl rfl

theorem bslice (hi lo : BitVec 4) (d : DataWord) : Statement (.bslice hi lo d) := by
  constructor
  · apply BitVec.eq_of_getLsbD_eq
    intro k hk
    interval_cases k <;> simp [opcField, encode, Instr.opcode, Opcode.code]
  · simp only [Instr.opcode, Opcode.format, Format.reservedClear, encode, beq_iff_eq]
    apply BitVec.eq_of_getLsbD_eq
    intro k hk
    interval_cases k <;> simp

end Sys2Proof.Laws.EncodingShape
end

