-- ==== Sys2Proof/Laws/Step.lean ====
section
/-! SUPPORT. What one word, one event and one step can do, said once; and runs over the words that the host presents. -/

namespace Sys2Proof.Machine

open Sys2Proof.Safety

theorem issue_legal {w : OpWord} {i : Instr} (h : decode w = .legal i) (s : State) : issue w s = exec i s := by
  simp [issue, h]

theorem issue_illegal {w : OpWord} {c : IllegalCause} (h : decode w = .illegal c) (s : State) :
    issue w s = .next (raiseIllegal c s) := by
  simp [issue, h]

/-- Everything a word can do: it answers a next state, by an operation of one of three shapes or by an illegal operation. -/
theorem issue_cases (w : OpWord) (s : State) :
    (∃ i, decode w = .legal i ∧
      ((writesAcc i = true ∧ ∃ a, issue w s = .next { s with acc := a, recov := 0#1 }) ∨
       (writesResult i = true ∧ ∃ r, issue w s = .next { s with result := r, recov := 0#1 }) ∨
       (isCheck i = true ∧ ∃ o : ErrorOutcome,
         issue w s = .next { s with outcome := outcomeCode o, recov := recoveryRequest o }))) ∨
    (∃ c, decode w = .illegal c ∧ issue w s = .next (raiseIllegal c s)) := by
  cases h : decode w with
  | legal i => exact .inl ⟨i, rfl, by rw [issue_legal h]; exact exec_cases i s (decode_wellFormed h)⟩
  | illegal c => exact .inr ⟨c, rfl, issue_illegal h s⟩

/-- A word with an operation's code, test by test (R53). -/
theorem issue_of_code {w : OpWord} {o : Opcode} (h : opcField w = o.code) (s : State) :
    issue w s =
      if o.format.reservedClear w then
        match (readOperands o w).rangeCause with
        | none => exec (readOperands o w) s
        | some c => .next (raiseIllegal c s)
      else .next (raiseIllegal .reservedField s) := by
  unfold issue
  rw [decode_of_code h]
  by_cases hr : o.format.reservedClear w = true
  · rw [if_pos hr, if_pos hr]
    cases (readOperands o w).rangeCause <;> rfl
  · rw [if_neg hr, if_neg hr]

/-- No word changes what the host presents later. -/
theorem issue_port {w : OpWord} {s t : State} (h : issue w s = .next t) : t.port = s.port := by
  rcases issue_cases w s with ⟨_, _, ⟨_, _, e⟩ | ⟨_, _, e⟩ | ⟨_, _, e⟩⟩ | ⟨_, _, e⟩ <;> rw [e] at h <;> cases h <;> rfl

/-- No word's effect depends on what the host presents later. -/
theorem issue_setPort {w : OpWord} {s t : State} (p : List HostEvent) (h : issue w s = .next t) :
    issue w (s.setPort p) = .next (t.setPort p) := by
  unfold issue at h ⊢
  split at h
  · exact exec_setPort p h
  · cases h
    rfl

theorem step_idle {s : State} (h : s.port = []) : step s = .next s := by
  simp [step, advance, takeEvent_nil h]

theorem step_op {s : State} {w : OpWord} {rest : List HostEvent} (h : s.port = .op w :: rest) :
    step s = issue w (s.setPort rest) := by
  simp [step, advance, takeEvent_cons h, handleEvent]

theorem step_reset {s : State} {rest : List HostEvent} (h : s.port = .reset :: rest) :
    step s = .next (applyReset (s.setPort rest)) := by
  simp [step, advance, takeEvent_cons h, handleEvent]

/-- Everything a step can do. -/
theorem step_cases (s : State) :
    (s.port = [] ∧ step s = .next s) ∨
    (∃ rest, s.port = .reset :: rest ∧ step s = .next (applyReset (s.setPort rest))) ∨
    (∃ w rest, s.port = .op w :: rest ∧ step s = issue w (s.setPort rest)) := by
  match h : s.port with
  | [] => exact .inl ⟨rfl, step_idle h⟩
  | .reset :: rest => exact .inr (.inl ⟨rest, rfl, step_reset h⟩)
  | .op w :: rest => exact .inr (.inr ⟨w, rest, rfl, step_op h⟩)

/-- Running the words one by one. -/
theorem issueAll_append (xs ys : List OpWord) (s t : State) (h : issueAll xs s = .next t) :
    issueAll (xs ++ ys) s = issueAll ys t := by
  induction xs generalizing s with
  | nil =>
    cases h
    rfl
  | cons x xs ih =>
    rcases hx : issue x s with u | r | r <;> simp [issueAll, hx] at h ⊢
    exact ih u h

end Sys2Proof.Machine
end

