-- ==== Sys2Proof/Tests/Slice0.lean ====
section
/-! SUPPORT. The model's own tests. Expected words and values are those of 95_test_vectors.md and of the formats of
30_encoding.md, each test naming its source; then, for every statement with hypotheses, a witness that meets them. -/

namespace Sys2Proof.Tests

open Sys2Proof.Machine Sys2Proof.Safety

/-- The next state of an outcome. -/
def nextOf : Host.Outcome State Fault Refusal → Option State
  | .next s => some s
  | .fault _ => none
  | .refused _ => none

/-- A state written as the vectors write it, ACC/RESULT/OUTCOME/RECOV/ILL/ILLC, with nothing on the port. -/
def st (acc : BitVec 8) (result : BitVec 16) (outcome : BitVec 3) (recov ill : BitVec 1) (illc : BitVec 3) : State :=
  { acc := acc, result := result, outcome := outcome, recov := recov, ill := ill, illc := illc, port := [] }

/-- The state after one step in which the host presents the word. -/
def after (w : OpWord) (s : State) : Option State := nextOf (step (s.present [w]))

/-! ## Well-formedness: one ill-formed operation for each check (R56) -/

theorem test_wellFormed_named_10 : (Instr.encNamed 10#4).wellFormed = true := by decide
theorem test_wellFormed_named_11 : (Instr.encNamed 11#4).wellFormed = false := by decide
theorem test_wellFormed_slice_equal : (Instr.bslice 8#4 8#4 0#16).wellFormed = true := by decide
theorem test_wellFormed_slice_reversed : (Instr.bslice 0#4 1#4 0#16).wellFormed = false := by decide

/-! ## Decoding: each operation's word, bit by bit from its format (R40 to R45) -/

theorem test_decode_crcInit : decode 0b00000000000000000000000000000000#32 = .legal .crcInit := by decide
theorem test_decode_crcByte : decode 0b00010000000000000000000010000001#32 = .legal (.crcByte 0x81#8) := by decide
theorem test_decode_crcWord : decode 0b00100000000000001000000000100001#32 = .legal (.crcWord 0x8021#16) := by decide
theorem test_decode_crcFinal : decode 0b00110000000000000000000000000000#32 = .legal .crcFinal := by decide
theorem test_decode_safetyCheck : decode 0b01000000000000000111000011001110#32 = .legal (.safetyCheck 0x70CE#16) := by decide
theorem test_decode_encCmd :
    decode 0b01011010101111001101000000000000#32 = .legal (.encCmd 1#1 0x5#4 0#1 0x3C#6 0xD#4) := by decide
theorem test_decode_encNamed : decode 0b01101010000000000000000000000000#32 = .legal (.encNamed 10#4) := by decide
theorem test_decode_dataGate : decode 0b01110000000000000001001000110100#32 = .legal (.dataGate 0x1234#16) := by decide
theorem test_decode_dec15 : decode 0b10000000000000000100000000000001#32 = .legal (.dec15 0x4001#16) := by decide
theorem test_decode_dec9 : decode 0b10010000000000000000000100000001#32 = .legal (.dec9 0x0101#16) := by decide
theorem test_decode_extRange : decode 0b10100000000000000000100000000000#32 = .legal (.extRange 0x0800#16) := by decide
theorem test_decode_extFir : decode 0b10110000000000000100000000000000#32 = .legal (.extFir 0x4000#16) := by decide
theorem test_decode_extPred : decode 0b11000000000000000000000000000100#32 = .legal (.extPred 0x0004#16) := by decide
theorem test_decode_bslice :
    decode 0b11011011100000000111101000111100#32 = .legal (.bslice 11#4 8#4 0x7A3C#16) := by decide

/-- The illegal words of V-ILL-1, with their causes. -/
theorem test_decode_illegal :
    [0xE0000000#32, 0xFFFFFFFF#32, 0x00000001#32, 0x08000000#32, 0x10000100#32, 0x10800000#32, 0x20010000#32, 0x30000001#32,
     0x40010000#32, 0x50000001#32, 0x50000800#32, 0x61000001#32, 0x6B000000#32, 0x6F000000#32, 0x6B000001#32, 0x70010000#32,
     0x80010000#32, 0x90100000#32, 0xA8000000#32, 0xB0010000#32, 0xC0010000#32, 0xD0010000#32, 0xD0F00000#32,
     0xD0F10000#32].map firstFailingTest =
      [1, 1, 2, 2, 2, 2, 2, 2, 2, 2, 2, 2, 3, 3, 2, 2, 2, 2, 2, 2, 2, 2, 4, 2].map some ∧
    decode 0xE0000000#32 = .illegal .reservedOpcode ∧ decode 0xD0F10000#32 = .illegal .reservedField ∧
    decode 0x6B000001#32 = .illegal .reservedField ∧ decode 0xD0F00000#32 = .illegal .sliceReversed := by decide

theorem test_encode_encCmd : encode (.encCmd 0#1 0xA#4 0#1 0x06#6 1#4) = 0x55061000#32 := by decide -- V-CMD-2
theorem test_encode_bslice : encode (.bslice 14#4 4#4 0x0800#16) = 0xDE400800#32 := by decide -- V-SLC-1
theorem test_decodeTableWord : decodeTableWord 32 0x58021000 = some (.encCmd 1#1 0#4 0#1 0x02#6 1#4) := by decide
theorem test_decodeTableWord_illegal : decodeTableWord 32 0x6B000000 = none := by decide

/-! ## One step each -/

/-- V-CRC-1: ACC re-seeded, RECOV cleared, the rest kept. -/
theorem test_crcInit : after 0x00000000#32 (st 0x31 0x8021 4 1 1 3) = some (st 0xFF 0x8021 4 0 1 3) := by decide
/-- V-CRC-2. -/
theorem test_crcByte : after 0x10000080#32 (st 0xFF 0x0000 7 0 0 0) = some (st 0xE2 0x0000 7 0 0 0) := by decide
/-- V-CRC-4: another accumulator. -/
theorem test_crcByte_acc : after 0x10000001#32 (st 0xF7 0x1234 4 1 0 0) = some (st 0x31 0x1234 4 0 0 0) := by decide
/-- V-CRC-7. -/
theorem test_crcWord : after 0x20008021#32 (st 0xFF 0x0000 7 0 0 0) = some (st 0x12 0x0000 7 0 0 0) := by decide +kernel
/-- V-CRC-12: the other byte order gives another ACC. -/
theorem test_crcWord_order : after 0x20002180#32 (st 0xFF 0x0000 7 0 0 0) = some (st 0x5E 0x0000 7 0 0 0) := by decide +kernel
/-- V-CRC-11. -/
theorem test_crcFinal : after 0x30000000#32 (st 0x31 0xFFFF 4 1 0 0) = some (st 0x31 0x00CE 4 0 0 0) := by decide
/-- V-CRC-15. -/
theorem test_crcFinal_empty : after 0x30000000#32 State.reset = some (st 0xFF 0x0000 7 0 0 0) := by decide
/-- V-SAF-1: a word with bit 15 and RESP set is OK; its CRC byte is the complement of ACC. -/
theorem test_safetyCheck_ok : after 0x4000FFCE#32 (st 0x31 0x8021 7 0 0 0) = some (st 0x31 0x8021 0 0 0 0) := by decide
/-- V-SAF-1: ACC itself is not the CRC. -/
theorem test_safetyCheck_crc : after 0x40007031#32 (st 0x31 0x8021 7 0 0 0) = some (st 0x31 0x8021 4 1 0 0) := by decide
/-- V-CMD-3. -/
theorem test_encCmd : after 0x5ABCD000#32 (st 0xFF 0x0000 4 1 0 0) = some (st 0xFF 0xABCD 4 0 0 0) := by decide
/-- V-CMD-1. -/
theorem test_encNamed : after 0x66000000#32 (st 0xFF 0x0000 7 0 0 0) = some (st 0xFF 0x8088 7 0 0 0) := by decide
/-- V-ILL-1. -/
theorem test_encNamed_illegal : after 0x6B000000#32 State.reset = some (st 0xFF 0x0000 7 0 1 3) := by decide
/-- V-GATE-1. -/
theorem test_dataGate_ok : after 0x70001234#32 (st 0xFF 0x0000 0 0 0 0) = some (st 0xFF 0x1234 0 0 0 0) := by decide
/-- V-GATE-1, from reset. -/
theorem test_dataGate_none : after 0x70001234#32 (st 0xFF 0x5555 7 0 0 0) = some (st 0xFF 0x0000 7 0 0 0) := by decide
/-- V-DEC-5: the most negative value, bit 15 of D set. -/
theorem test_dec15_min : after 0x8000C000#32 State.reset = some (st 0xFF 0xC000 7 0 0 0) := by decide
/-- V-DEC-5: the largest. -/
theorem test_dec15_max : after 0x8000BFFF#32 State.reset = some (st 0xFF 0x3FFF 7 0 0 0) := by decide
/-- V-DEC-3. -/
theorem test_dec9 : after 0x90000101#32 State.reset = some (st 0xFF 0xFF01 7 0 0 0) := by decide
/-- V-DEC-6: bits 15:9 ignored. -/
theorem test_dec9_high : after 0x9000FE00#32 (st 0xFF 0x1111 7 0 0 0) = some (st 0xFF 0x0000 7 0 0 0) := by decide
/-- V-EXT-1. -/
theorem test_extRange : after 0xA0001230#32 State.reset = some (st 0xFF 0x0123 7 0 0 0) := by decide
/-- V-EXT-1: bits 15 and 3:0 ignored. -/
theorem test_extRange_edges : after 0xA000FFFF#32 State.reset = some (st 0xFF 0x07FF 7 0 0 0) := by decide
/-- V-EXT-2. -/
theorem test_extFir : after 0xB0008000#32 State.reset = some (st 0xFF 0x0002 7 0 0 0) := by decide
/-- V-EXT-3. -/
theorem test_extPred_set : after 0xC0000004#32 State.reset = some (st 0xFF 0x0003 7 0 0 0) := by decide
/-- V-EXT-3. -/
theorem test_extPred_clear : after 0xC000FFFB#32 State.reset = some (st 0xFF 0x0002 7 0 0 0) := by decide
/-- V-SLC-1. -/
theorem test_bslice : after 0xDB807A3C#32 State.reset = some (st 0xFF 0x000A 7 0 0 0) := by decide
/-- V-SLC-1: a 15-bit field is not sign-extended. -/
theorem test_bslice_wide : after 0xDF10FFFF#32 State.reset = some (st 0xFF 0x7FFF 7 0 0 0) := by decide
/-- V-ILL-2: RECOV survives an illegal word. -/
theorem test_illegal_keeps_recov : after 0xE0000000#32 (st 0x12 0x0000 4 1 0 0) = some (st 0x12 0x0000 4 1 1 1) := by decide
/-- P6: the first cause stays. -/
theorem test_illegal_first_cause : after 0xD0F00000#32 (st 0x12 0x0000 7 0 1 1) = some (st 0x12 0x0000 7 0 1 1) := by decide
/-- V-RST-1, with a word still to come. -/
theorem test_reset_event :
    nextOf (step { st 0x57 0xFFFF 4 1 1 3 with port := [.reset, .op 0x30000000#32] }) =
      some { st 0xFF 0x0000 7 0 0 0 with port := [.op 0x30000000#32] } := by decide
/-- R108: nothing presented, nothing done. -/
theorem test_idle : nextOf (step (st 0x57 0xFFFF 4 1 1 3)) = some (st 0x57 0xFFFF 4 1 1 3) := by decide
/-- The host's placing of a word. -/
theorem test_withFetchWord : nextOf (step (State.reset.withFetchWord 32 0x20008021)) = some (st 0x12 0x0000 7 0 0 0) := by decide +kernel

/-! ## The source's functions -/

/-- V-CRC-10: "123456789". -/
theorem test_crc8_check : crc8 [0x31, 0x32, 0x33, 0x34, 0x35, 0x36, 0x37, 0x38, 0x39] = 0x4B#8 := by decide +kernel
/-- V-CRC-9: the eighteen bytes of a block read. -/
theorem test_validate_block :
    validate 0x7008#16 0x8088#16 [0x1111, 0x2222, 0x3333, 0x4444, 0x5555, 0x6666, 0x7777, 0x8888] = .ok := by decide +kernel
/-- V-SRC-3. -/
theorem test_validate_status_first : validate 0x30CE#16 0x8021#16 [0x0001] = .systemError := by decide
/-- V-CRC-13. -/
theorem test_wide_accumulator : wideStep (wideStep 0x000000FF#32 0x80#8) 0x21#8 = 0x007ACA12#32 := by decide +kernel
/-- R86. -/
theorem test_fir_constants : [0#2, 1#2, 2#2, 3#2].map firConstantTenths = [213, 427, 853, 1706] := by decide
/-- R46 and R47: every constant is the packing of its field columns. -/
theorem test_named_fields : namedAll.map namedValue = namedAll.map (fun n => packCommand (namedFields n)) := by decide

/-! ## The assembler (R58, R59) -/

/-- P1, line 5, with a comment, a hexadecimal number and blanks. -/
theorem test_asm_line : asmLine " safety.check 0x70CE ; all good".toList = .ok [.safetyCheck 0x70CE#16] := by decide
/-- V-CMD-1 by name. -/
theorem test_asm_name : asmLine "enc.named READ_BLOCK_CRC".toList = .ok [.encNamed 6#4] := by decide
/-- R58: an operand that does not fit is refused, and so is a selector above 10 and a reversed slice. -/
theorem test_asm_refuses :
    asmLine "crc.byte 256".toList = .error .doesNotFit ∧ asmLine "enc.named 11".toList = .error .selectorOutOfRange ∧
    asmLine "bslice 0, 15, 0x0000".toList = .error .sliceReversed ∧ asmLine "crc.byte".toList = .error .wrongOperands ∧
    asmLine "CRC.INIT".toList = .error .unknownMnemonic := by decide
/-- R59: the pseudo-instruction of V-SRC-1. -/
theorem test_asm_readgated :
    (asmLine "readgated 0x8021, 0x0001, 0x70CE".toList).map (fun is => is.map encode) =
      .ok [0x00000000#32, 0x20008021#32, 0x20000001#32, 0x400070CE#32, 0x70000001#32] := by decide

/-- R58: lines, an empty one among them. -/
theorem test_assemble : assemble "crc.init\n\ncrc.byte 0x80" = .ok [0x00000000#32, 0x10000080#32] := by decide +kernel

/-! ## Witnesses: for every statement with hypotheses, values that meet all of them, at the bounds where a clause has some -/

theorem witness_DecodeOfEncode :
    (Instr.encNamed 10#4).wellFormed = true ∧ (Instr.bslice 15#4 15#4 0xFFFF#16).wellFormed = true ∧
    (Instr.encCmd 1#1 0xF#4 1#1 0x3F#6 0xF#4).wellFormed = true := by decide
theorem witness_EncodeOfDecode : decode 0xDFF08000#32 = .legal (.bslice 15#4 15#4 0x8000#16) := by decide
theorem witness_StepRunsPresentedEvent :
    (∃ s : State, s.port = .op 0x30000000#32 :: [.reset] ∧ decode 0x30000000#32 = .legal .crcFinal) ∧
    (∃ s : State, s.port = .op 0xE0000000#32 :: [] ∧ decode 0xE0000000#32 = .illegal .reservedOpcode) ∧
    (∃ s : State, s.port = .reset :: []) ∧ (∃ s : State, s.port = []) :=
  ⟨⟨{ State.reset with port := _ }, rfl, by decide⟩, ⟨{ State.reset with port := _ }, rfl, by decide⟩,
    ⟨{ State.reset with port := _ }, rfl⟩, ⟨State.reset, rfl⟩⟩
theorem witness_StepConsumesOneEvent :
    ∃ t, step { State.reset with port := [.op 0x30000000#32, .reset] } = .next t := ⟨_, rfl⟩
theorem witness_StepDependsOnRegistersAndEvent :
    ∃ s t s' t' : State, s ≠ t ∧ SameRegisters s t ∧ s.port.head? = t.port.head? ∧ step s = .next s' ∧ step t = .next t' :=
  ⟨{ State.reset with port := [.op 0x10000080#32] }, { State.reset with port := [.op 0x10000080#32, .reset] }, _, _, by decide,
    rfl, rfl, rfl, rfl⟩
theorem witness_IllegalWordEffect :
    decode 0xE0000000#32 = .illegal .reservedOpcode ∧ decode 0x00000001#32 = .illegal .reservedField ∧
    decode 0x6B000000#32 = .illegal .selectorOutOfRange ∧ decode 0xD0F00000#32 = .illegal .sliceReversed ∧
    decode 0x30000000#32 = .legal .crcFinal := by decide
theorem witness_IllegalFlagIsSticky :
    (∃ s t : State, s.port.head? ≠ some .reset ∧ step s = .next t ∧ s.ill = 1#1) ∧
    (∃ t, legalWord 0x30000000#32 = true ∧ issue 0x30000000#32 (st 0x31 0 4 1 1 3) = .next t) :=
  ⟨⟨{ st 0xFF 0 7 0 1 1 with port := [.op 0xD0F00000#32] }, _, by decide, rfl, rfl⟩, ⟨_, by decide, rfl⟩⟩
theorem witness_IllRecordsFirstIllegalWord :
    ∃ t, State.reset.ill = 0#1 ∧ issueAll [0x30000000#32, 0x6B000000#32] State.reset = .next t := by
  have h1 : decode 0x30000000#32 = .legal .crcFinal := by decide
  have h2 : decode 0x6B000000#32 = .illegal .selectorOutOfRange := by decide
  exact ⟨raiseIllegal .selectorOutOfRange (State.reset.finishResult ((crcComplement State.reset.acc).setWidth 16)), rfl,
    by simp only [issueAll, issue_legal h1, issue_illegal h2, exec, execCrcFinal]⟩
theorem witness_WideAccumulatorAgrees : (8 : Nat) ≤ 8 := by decide
theorem witness_ChangedByteChangesCrc : (0x80#8 : Byte) ≠ 0x81#8 := by decide
theorem witness_CrcInitLoadsSeed : (0x0FFFFFFF#32 : OpWord).extractLsb 31 28 = 0x0#4 := by decide
theorem witness_CrcByteFeedsOneByte : (0x100000FF#32 : OpWord).extractLsb 31 28 = 0x1#4 := by decide
theorem witness_CrcWordFeedsHighByteFirst : (0x20008021#32 : OpWord).extractLsb 31 28 = 0x2#4 := by decide
theorem witness_CrcFinalComplements : (0x30000001#32 : OpWord).extractLsb 31 28 = 0x3#4 := by decide
theorem witness_SafetyCheckOutcome : (0x400070CE#32 : OpWord).extractLsb 31 28 = 0x4#4 := by decide
theorem witness_EncCmdPacksFields : (0x5FFFF000#32 : OpWord).extractLsb 31 28 = 0x5#4 := by decide
theorem witness_EncNamedGivesConstant :
    (10#4 : BitVec 4).toNat ≤ 10 ∧ 10 < (11#4 : BitVec 4).toNat ∧ (0x6B000001#32 : OpWord).extractLsb 31 28 = 0x6#4 := by decide
theorem witness_DataGateZeroesUnlessOk : (0x70001234#32 : OpWord).extractLsb 31 28 = 0x7#4 := by decide
theorem witness_DecFifteenSignExtends : (0x80004000#32 : OpWord).extractLsb 31 28 = 0x8#4 := by decide
theorem witness_DecNineSignExtends : (0x90000100#32 : OpWord).extractLsb 31 28 = 0x9#4 := by decide
theorem witness_ExtRangeExtracts : (0xA0007FF0#32 : OpWord).extractLsb 31 28 = 0xA#4 := by decide
theorem witness_ExtFirExtracts : (0xB000C000#32 : OpWord).extractLsb 31 28 = 0xB#4 := by decide
theorem witness_ExtPredGivesDivisor : (0xC0000004#32 : OpWord).extractLsb 31 28 = 0xC#4 := by decide
theorem witness_BsliceExtracts :
    (8#4 : BitVec 4).toNat ≤ (8#4 : BitVec 4).toNat ∧ (8#4 : BitVec 4).toNat < (9#4 : BitVec 4).toNat ∧
    (0xD0F10000#32 : OpWord).extractLsb 31 28 = 0xD#4 := by decide
/-- From reset, and after a `crc.init`; the words are an illegal one and an operation that does not write ACC. -/
theorem witness_CrcRunComputesCrcEight :
    SameRegisters State.reset State.reset ∧ (∃ s s₀ : State, s ≠ s₀ ∧ issue 0x00000000#32 s₀ = .next s) ∧
    (∀ w ∈ [0xE0000000#32, 0x30000000#32], decode w ≠ .legal .crcInit) := by
  refine ⟨rfl, ⟨st 0xFF 0 4 0 0 0, st 0x31 0 4 1 0 0, by decide, rfl⟩, ?_⟩
  have h1 : decode 0xE0000000#32 ≠ .legal .crcInit := by decide
  have h2 : decode 0x30000000#32 ≠ .legal .crcInit := by decide
  intro w hw
  rcases List.mem_cons.1 hw with rfl | hw
  · exact h1
  · cases List.mem_singleton.1 hw
    exact h2
theorem witness_SafetyCheckIgnoresUntestedBits : (0xFFCE#16 : DataWord) &&& 0x70FF#16 = 0x70CE#16 &&& 0x70FF#16 := by decide
theorem witness_StatusFailureShortCircuitsCrc :
    ∃ t u, (0x60CE#16 : DataWord) &&& 0x7000#16 ≠ 0x7000#16 ∧ exec (.safetyCheck 0x60CE#16) State.reset = .next t ∧
      exec (.safetyCheck 0x60CE#16) { State.reset with acc := 0x31#8 } = .next u := ⟨_, _, by decide, rfl, rfl⟩
theorem witness_OutcomeKeptUntilNextCheck :
    ∃ t, SameRegisters State.reset State.reset ∧ (∀ w ∈ [0xE0000000#32], isCheckWord w = false) ∧
      issueAll [0xE0000000#32] State.reset = .next t := by
  have hd : decode 0xE0000000#32 = .illegal .reservedOpcode := by decide
  refine ⟨raiseIllegal .reservedOpcode State.reset, rfl, ?_, by simp only [issueAll, issue_illegal hd]⟩
  intro w hw
  cases List.mem_singleton.1 hw
  simp only [isCheckWord, hd]
theorem witness_DecFifteenProperties : ∃ t, exec (.dec15 0xC000#16) State.reset = .next t := ⟨_, rfl⟩
theorem witness_DecNineProperties : ∃ t, exec (.dec9 0x8100#16) State.reset = .next t := ⟨_, rfl⟩
theorem witness_BsliceResultAsNumber :
    ∃ t, (0#4 : BitVec 4).toNat ≤ (15#4 : BitVec 4).toNat ∧ exec (.bslice 15#4 0#4 0xA5C3#16) State.reset = .next t :=
  ⟨_, by decide, rfl⟩
theorem witness_ExtractorsAreSlices :
    ∃ t u, exec (.extPred 0x0004#16) State.reset = .next t ∧ exec (.bslice 2#4 2#4 0x0004#16) State.reset = .next u :=
  ⟨_, _, rfl, rfl⟩
/-- An operation that writes none of the three, one that writes each, and an ill-formed one. -/
theorem witness_EachRegisterHasItsWriters :
    (∃ t, exec .crcInit (st 0x31 0 4 1 0 0) = .next t ∧ writesResult .crcInit = false ∧ isCheck .crcInit = false) ∧
    (∃ t, exec .crcFinal State.reset = .next t ∧ writesAcc .crcFinal = false ∧ Instr.crcFinal.wellFormed = true ∧
      isCheck .crcFinal = false) ∧
    (∃ t, exec (.encNamed 11#4) State.reset = .next t ∧ (Instr.encNamed 11#4).wellFormed = false) :=
  ⟨⟨_, rfl, rfl, rfl⟩, ⟨_, rfl, rfl, rfl, rfl⟩, ⟨_, rfl, rfl⟩⟩
theorem witness_EachRegisterHasItsReaders :
    (∃ t t', (Instr.crcFinal).wellFormed = true ∧ exec .crcFinal (st 0x31 1 4 1 1 2) = .next t ∧
      exec .crcFinal (st 0x31 2 0 0 0 0) = .next t' ∧ (readsAcc .crcFinal = true → (0x31#8 : Byte) = 0x31#8) ∧
      readsOutcome .crcFinal = false) ∧
    (∃ t t', exec (.dataGate 0x1234#16) (st 0x31 1 0 1 1 2) = .next t ∧ exec (.dataGate 0x1234#16) (st 0x57 2 0 0 0 0) = .next t' ∧
      readsAcc (.dataGate 0x1234#16) = false) :=
  ⟨⟨_, _, rfl, rfl, rfl, fun _ => rfl, rfl⟩, ⟨_, _, rfl, rfl, rfl⟩⟩
theorem witness_RecoveryRequestLastsToNextLegalWord :
    (∃ t, issue 0x400070CF#32 (st 0x31 0 7 0 0 0) = .next t) ∧ (∃ t, issue 0xE0000000#32 (st 0x12 0 4 1 0 0) = .next t) :=
  ⟨⟨_, rfl⟩, ⟨_, rfl⟩⟩
theorem witness_ResultBounds :
    (∃ t, exec .crcFinal (st 0x00 0 7 0 0 0) = .next t) ∧ (∃ t, exec (.extRange 0x7FF0#16) State.reset = .next t) ∧
    (∃ t, exec (.extFir 0xC000#16) State.reset = .next t) ∧ (∃ t, exec (.extPred 0x0004#16) State.reset = .next t) :=
  ⟨⟨_, rfl⟩, ⟨_, rfl⟩, ⟨_, rfl⟩, ⟨_, rfl⟩⟩
theorem witness_StepKeepsInv :
    ∃ t, Inv { st 0x12 0 4 1 1 4 with port := [.op 0x40007000#32] } ∧
      step { st 0x12 0 4 1 1 4 with port := [.op 0x40007000#32] } = .next t := ⟨_, by decide, rfl⟩

end Sys2Proof.Tests
end

/-! SUPPORT. The proofs of the family 00_scope.md: what a step and a run of words do (R10, R13, R15, R21, R22, R99), the number
that a slice is (R6), and which operands the assembler accepts (R58). -/

namespace Sys2Proof.Machine

open Sys2Proof.Safety

/-! ## One step -/

/-- The model's effect of an illegal word is the one that R99 writes. -/
theorem raiseIllegal_eq_afterIllegal (c : IllegalCause) (s : State) : raiseIllegal c s = afterIllegal (causeCode c) s := rfl

/-- Every word has a next state (R10). -/
theorem issue_total (w : OpWord) (s : State) : ∃ t, issue w s = .next t := by
  rcases issue_cases w s with ⟨_, _, ⟨_, _, h⟩ | ⟨_, _, h⟩ | ⟨_, _, h⟩⟩ | ⟨_, _, h⟩ <;> exact ⟨_, h⟩

/-- Every state has a next state (R10). -/
theorem step_total (s : State) : ∃ t, step s = .next t := by
  rcases step_cases s with ⟨_, h⟩ | ⟨_, _, h⟩ | ⟨w, rest, _, h⟩
  · exact ⟨_, h⟩
  · exact ⟨_, h⟩
  · rw [h]
    exact issue_total w _

/-- A table word of the full width is the word of those bits. -/
@[simp] theorem tableWord_full (w : Nat) : tableWord 32 w = BitVec.ofNat 32 w := by
  apply BitVec.eq_of_toNat_eq
  simp [tableWord]

/-- Settles O7: each clause is what `step` does with the head of the port, and what `issue` does with the word. -/
theorem stepRunsPresentedEvent : Obligations.StepRunsPresentedEvent := by
  refine ⟨?_, ?_, ?_, fun s hp => step_idle hp⟩
  · intro s w rest i hp hd
    exact (step_op hp).trans (issue_legal hd _)
  · intro s w rest c hp hd
    rw [step_op hp, issue_illegal hd, raiseIllegal_eq_afterIllegal]
    rfl
  · intro s rest hp
    rw [step_reset hp, applyReset_eq, State.setPort_port]

/-- Settles O8: the word stands at the head of the port, and taking it off leaves the state as it was. -/
theorem withFetchWordRunsIt : Obligations.WithFetchWordRunsIt := by
  intro s w
  have hp : (s.withFetchWord 32 w).port = .op (BitVec.ofNat 32 w) :: s.port := by simp [State.withFetchWord]
  exact step_op hp

/-- Settles O9: a legal word runs its operation, which is total; an illegal one has R99's effect. -/
theorem stepIsTotal : Obligations.StepIsTotal := by
  refine ⟨step_total, fun w s => ?_⟩
  obtain ⟨t, ht⟩ := issue_total w s
  refine ⟨t, ht, ?_⟩
  cases hd : decode w with
  | legal i => exact .inl ⟨i, rfl, (issue_legal hd s).symm.trans ht⟩
  | illegal c =>
    rw [issue_illegal hd, raiseIllegal_eq] at ht
    cases ht
    exact .inr ⟨c, rfl, rfl⟩

/-! ## Two states with the same registers -/

/-- Two states with the same registers differ at most in what the host presents later. -/
theorem eq_setPort_of_sameRegisters {s t : State} (h : SameRegisters s t) : t = s.setPort t.port := by
  cases s
  cases t
  cases h
  rfl

/-- A word does the same to the registers whatever stands on the port (R10, R15). -/
theorem issue_sameRegisters {w : OpWord} {s t s' t' : State} (h : SameRegisters s t) (hs : issue w s = .next s')
    (ht : issue w t = .next t') : SameRegisters s' t' := by
  have hs' := issue_setPort t.port hs
  rw [← eq_setPort_of_sameRegisters h, ht] at hs'
  cases hs'
  rfl

/-- Settles O11: the same event stands at the head of both ports, and it is a reset, or a word, whose effect does not depend on
the port. -/
theorem stepDependsOnRegistersAndEvent : Obligations.StepDependsOnRegistersAndEvent := by
  intro s t s' t' hr hp hs ht
  rcases step_cases s with ⟨ps, es⟩ | ⟨_, ps, es⟩ | ⟨w, rest, ps, es⟩ <;> rw [es] at hs <;> rw [ps] at hp
  · have pt : t.port = [] := List.head?_eq_none_iff.1 hp.symm
    cases hs
    cases (step_idle pt).symm.trans ht
    exact hr
  · obtain ⟨_, pt⟩ : ∃ rest, t.port = .reset :: rest := List.head?_eq_some_iff.1 hp.symm
    cases hs
    cases (step_reset pt).symm.trans ht
    rfl
  · obtain ⟨rest', pt⟩ : ∃ rest', t.port = .op w :: rest' := List.head?_eq_some_iff.1 hp.symm
    rw [step_op pt] at ht
    exact issue_sameRegisters (s := s.setPort rest) (t := t.setPort rest') hr hs ht

/-! ## A run of words -/

/-- A run of a first word and more is the word's next state and the run from there. -/
theorem issueAll_cons_eq_next {w : OpWord} {ws : List OpWord} {s t : State} :
    issueAll (w :: ws) s = .next t ↔ ∃ u, issue w s = .next u ∧ issueAll ws u = .next t := by
  obtain ⟨u, hu⟩ := issue_total w s
  simp [issueAll, hu]

/-- A legal word changes neither ILL nor ILLC (R21, R22). -/
theorem issue_legal_keeps_ill {w : OpWord} {i : Instr} {s t : State} (hd : decode w = .legal i) (h : issue w s = .next t) :
    t.ill = s.ill ∧ t.illc = s.illc := by
  rcases issue_cases w s with ⟨_, _, ⟨_, _, e⟩ | ⟨_, _, e⟩ | ⟨_, _, e⟩⟩ | ⟨_, hc, _⟩
  case inr => cases hd.symm.trans hc
  all_goals
    cases e.symm.trans h
    exact ⟨rfl, rfl⟩

/-- Once ILL is 1, no word changes ILL or ILLC: the first cause stays (R21, R22). -/
theorem issue_keeps_recorded_cause {w : OpWord} {s t : State} (hs : s.ill = 1#1) (h : issue w s = .next t) :
    t.ill = 1#1 ∧ t.illc = s.illc := by
  cases hd : decode w with
  | legal i =>
    obtain ⟨hill, hillc⟩ := issue_legal_keeps_ill hd h
    exact ⟨hill.trans hs, hillc⟩
  | illegal c =>
    cases (issue_illegal hd s).symm.trans h
    simp [hs]

/-- The same over any run of words. -/
theorem issueAll_keeps_recorded_cause {ws : List OpWord} {s t : State} (hs : s.ill = 1#1) (h : issueAll ws s = .next t) :
    t.ill = 1#1 ∧ t.illc = s.illc := by
  induction ws generalizing s with
  | nil =>
    cases h
    exact ⟨hs, rfl⟩
  | cons w ws ih =>
    obtain ⟨u, hu, h⟩ := issueAll_cons_eq_next.1 h
    obtain ⟨hill, hillc⟩ := issue_keeps_recorded_cause hs hu
    rw [← hillc]
    exact ih hill h

/-- A legal word is not the first illegal one. -/
theorem firstCause_cons_legal {w : OpWord} {i : Instr} (hd : decode w = .legal i) (ws : List OpWord) :
    firstCause (w :: ws) = firstCause ws := by
  simp [firstCause, hd]

/-- An illegal word at the head is the first. -/
theorem firstCause_cons_illegal {w : OpWord} {c : IllegalCause} (hd : decode w = .illegal c) (ws : List OpWord) :
    firstCause (w :: ws) = some c := by
  simp [firstCause, hd]

/-- A program is well formed exactly when it has no first illegal word (R13). -/
theorem wellFormedProgram_iff (ws : List OpWord) : wellFormedProgram ws = true ↔ firstCause ws = none := by
  induction ws with
  | nil => exact ⟨fun _ => rfl, fun _ => rfl⟩
  | cons w ws ih =>
    cases hd : decode w with
    | legal i =>
      rw [firstCause_cons_legal hd, ← ih]
      simp [wellFormedProgram, legalWord, hd]
    | illegal c =>
      rw [firstCause_cons_illegal hd]
      simp [wellFormedProgram, legalWord, hd]

/-- A run of legal words changes neither ILL nor ILLC. -/
theorem issueAll_keeps_ill {ws : List OpWord} {s t : State} (hc : firstCause ws = none) (h : issueAll ws s = .next t) :
    t.ill = s.ill ∧ t.illc = s.illc := by
  induction ws generalizing s with
  | nil =>
    cases h
    exact ⟨rfl, rfl⟩
  | cons w ws ih =>
    obtain ⟨u, hu, h⟩ := issueAll_cons_eq_next.1 h
    cases hd : decode w with
    | legal i =>
      obtain ⟨hill, hillc⟩ := issue_legal_keeps_ill hd hu
      rw [← hill, ← hillc]
      exact ih ((firstCause_cons_legal hd ws).symm.trans hc) h
    | illegal c => cases (firstCause_cons_illegal hd ws).symm.trans hc

/-- A run with an illegal word, from ILL = 0, records the cause of its first one (R22, R99). -/
theorem issueAll_records_firstCause {ws : List OpWord} {s t : State} {c : IllegalCause} (hs : s.ill = 0#1)
    (hc : firstCause ws = some c) (h : issueAll ws s = .next t) : t.ill = 1#1 ∧ t.illc = causeCode c := by
  induction ws generalizing s with
  | nil => cases hc
  | cons w ws ih =>
    obtain ⟨u, hu, h⟩ := issueAll_cons_eq_next.1 h
    cases hd : decode w with
    | legal i =>
      obtain ⟨hill, _⟩ := issue_legal_keeps_ill hd hu
      exact ih (hill.trans hs) ((firstCause_cons_legal hd ws).symm.trans hc) h
    | illegal c' =>
      cases (firstCause_cons_illegal hd ws).symm.trans hc
      cases (issue_illegal hd s).symm.trans hu
      simpa [hs] using issueAll_keeps_recorded_cause (raiseIllegal_ill c s) h

/-- Settles O16: the run has no illegal word, or a first one, whose cause stays recorded. -/
theorem illRecordsFirstIllegalWord : Obligations.IllRecordsFirstIllegalWord := by
  intro ws s t hs h
  rw [wellFormedProgram_iff]
  cases hc : firstCause ws with
  | none =>
    obtain ⟨hill, hillc⟩ := issueAll_keeps_ill hc h
    simp [hill, hs, hillc]
  | some c =>
    obtain ⟨hill, hillc⟩ := issueAll_records_firstCause hs hc h
    simp [hill, hillc]

/-! ## The number that a slice is (R6) -/

/-- A slice of a 16-bit word fits in 16 bits, so nothing of it is cut off. -/
theorem slice_toNat {hi : Nat} (h : hi < 16) (lo : Nat) (d : DataWord) :
    (slice hi lo d).toNat = d.toNat / 2 ^ lo % 2 ^ (hi - lo + 1) := by
  have hle : 2 ^ (hi - lo + 1) ≤ 2 ^ 16 := Nat.pow_le_pow_right (by decide) (by omega)
  have hlt : d.toNat / 2 ^ lo % 2 ^ (hi - lo + 1) < 2 ^ 16 := Nat.lt_of_lt_of_le (Nat.mod_lt _ (Nat.two_pow_pos _)) hle
  rw [slice, BitVec.toNat_setWidth, BitVec.extractLsb'_toNat, Nat.shiftRight_eq_div_pow, Nat.mod_eq_of_lt hlt]

/-- Settles O46: for LO ≤ HI the result is the slice. -/
theorem bsliceResultAsNumber : Obligations.BsliceResultAsNumber := by
  intro hi lo d s t hle h
  cases (execBslice_eq hle d s).symm.trans h
  exact slice_toNat hi.isLt lo.toNat d

/-! ## Operands that the assembler accepts (R58) -/

/-- The first part answered a value, and the rest answered from it. -/
theorem except_bind_eq_ok {ε α β : Type} {x : Except ε α} {f : α → Except ε β} {b : β} :
    x.bind f = .ok b ↔ ∃ a, x = .ok a ∧ f a = .ok b := by
  cases x <;> simp [Except.bind]

/-- A field answers exactly its own number: nothing wraps and nothing is truncated (R58). -/
@[simp] theorem fitField_eq_ok {width n : Nat} {v : BitVec width} : fitField width n = .ok v ↔ v.toNat = n := by
  unfold fitField
  constructor
  · intro h
    split at h
    · rename_i hn
      cases h
      exact by simp [Nat.mod_eq_of_lt hn]
    · cases h
  · rintro rfl
    simp [v.isLt]

@[simp] theorem operandField_number (width n : Nat) : operandField width (.number n) = fitField width n := rfl

@[simp] theorem operandSelector_number (n : Nat) : operandSelector (.number n) = fitField 4 n := rfl

/-- The range check answers the operation itself, exactly when it is well formed (R56). -/
@[simp] theorem checkRange_eq_ok {i j : Instr} : checkRange i = .ok j ↔ i = j ∧ i.wellFormed = true := by
  rw [← rangeCause_eq_none]
  unfold checkRange
  rcases i.rangeCause with _ | c
  · simp
  · cases c <;> simp

/-- An operation with a 16-bit operand reads it as a field. -/
theorem asmData_eq_bind (mk : DataWord → Instr) (d : Operand) :
    asmData mk d = (operandField 16 d).bind fun v => .ok (mk v) := by
  unfold asmData
  cases operandField 16 d <;> rfl

/-- The operands of a well-formed operation, as numbers, give the operation back. -/
theorem asmOperation_operandValues {i : Instr} (hw : i.wellFormed = true) :
    asmOperation i.opcode ((operandValues i).map .number) = .ok i := by
  cases i <;> simp [Instr.opcode, operandValues, asmOperation, asmData_eq_bind, except_bind_eq_ok, hw]

/-- What an operation with one 16-bit operand answers holds the one number given. -/
theorem asmData_number_sound {mk : DataWord → Instr} {ns : List Nat} {d : Operand} {i : Instr}
    (hns : ns.map .number = [d]) (h : asmData mk d = .ok i) : ∃ v : DataWord, ns = [v.toNat] ∧ i = mk v := by
  obtain ⟨n, rfl, rfl⟩ := List.map_eq_singleton_iff.1 hns
  simp only [asmData_eq_bind, operandField_number, except_bind_eq_ok, fitField_eq_ok] at h
  obtain ⟨v, rfl, hv⟩ := h
  cases hv
  exact ⟨v, rfl, rfl⟩

/-- What numeric operands give is a well-formed operation of that mnemonic with exactly those operands. The cases are the arms
of `asmOperation`, in its order. -/
theorem asmOperation_number_sound {o : Opcode} {ns : List Nat} {i : Instr} (h : asmOperation o (ns.map .number) = .ok i) :
    i.opcode = o ∧ operandValues i = ns ∧ i.wellFormed = true := by
  unfold asmOperation at h
  split at h
  case h_1 hns | h_4 hns =>
    cases h
    cases List.map_eq_nil_iff.1 hns
    exact ⟨rfl, rfl, rfl⟩
  case h_2 hns =>
    obtain ⟨n, rfl, rfl⟩ := List.map_eq_singleton_iff.1 hns
    simp only [operandField_number, except_bind_eq_ok, fitField_eq_ok] at h
    obtain ⟨b, rfl, hb⟩ := h
    cases hb
    exact ⟨rfl, rfl, rfl⟩
  case h_6 hns =>
    simp only [List.map_eq_cons_iff, List.map_eq_nil_iff] at hns
    obtain ⟨_, _, rfl, rfl, _, _, rfl, rfl, _, _, rfl, rfl, _, _, rfl, rfl, _, _, rfl, rfl, rfl⟩ := hns
    simp only [operandField_number, except_bind_eq_ok, fitField_eq_ok] at h
    obtain ⟨rwFlag, rfl, access, rfl, upd, rfl, addr, rfl, nd, rfl, hi⟩ := h
    cases hi
    exact ⟨rfl, rfl, rfl⟩
  case h_7 hns =>
    obtain ⟨n, rfl, rfl⟩ := List.map_eq_singleton_iff.1 hns
    simp only [operandSelector_number, except_bind_eq_ok, fitField_eq_ok, checkRange_eq_ok] at h
    obtain ⟨sel, rfl, rfl, hw⟩ := h
    exact ⟨rfl, rfl, hw⟩
  case h_14 hns =>
    simp only [List.map_eq_cons_iff, List.map_eq_nil_iff] at hns
    obtain ⟨_, _, rfl, rfl, _, _, rfl, rfl, _, _, rfl, rfl, rfl⟩ := hns
    simp only [operandField_number, except_bind_eq_ok, fitField_eq_ok, checkRange_eq_ok] at h
    obtain ⟨hi, rfl, lo, rfl, d, rfl, rfl, hw⟩ := h
    exact ⟨rfl, rfl, hw⟩
  case h_15 => cases h
  -- The eight arms with one 16-bit operand.
  all_goals
    rename_i hns
    obtain ⟨v, rfl, rfl⟩ := asmData_number_sound hns h
    exact ⟨rfl, rfl, rfl⟩

/-- Settles O55: a field accepts exactly the numbers that fit it, and the range check exactly the well-formed operations. -/
theorem assemblerAcceptsExactlyWhatFits : Obligations.AssemblerAcceptsExactlyWhatFits := by
  intro o ns i
  constructor
  · exact asmOperation_number_sound
  · rintro ⟨rfl, rfl, hw⟩
    exact asmOperation_operandValues hw

end Sys2Proof.Machine

/-! SUPPORT. The proofs of the family 10_state.md: which operation writes and which reads each register (R16 to R22), the
reset values (R28), what the status registers can hold (R18, R19, R21, R22), and what a step does with the port (R34, R36). -/

namespace Sys2Proof.Machine

open Sys2Proof.Safety

/-! ## The kind of a word -/

/-- A legal word is one that decodes to an operation. -/
theorem legalWord_iff {w : OpWord} : legalWord w = true ↔ ∃ i, decode w = .legal i := by
  unfold legalWord
  cases decode w <;> simp

/-- `safety.check` is the only operation that is a check. -/
theorem isCheck_iff {i : Instr} : isCheck i = true ↔ ∃ d, i = .safetyCheck d := by
  cases i <;> simp [isCheck]

/-- A legal word is a check exactly when its operation is. -/
theorem isCheckWord_legal {w : OpWord} {i : Instr} (hd : decode w = .legal i) : isCheckWord w = isCheck i := by
  simp [isCheckWord, hd]

/-! ## The invariant of the status registers -/

/-- Settles O53: the reset values are OUTCOME 7 and zeros. -/
theorem resetSatisfiesInv : Obligations.ResetSatisfiesInv := by
  unfold Obligations.ResetSatisfiesInv
  decide

/-- The invariant speaks of OUTCOME, RECOV, ILL and ILLC only, so writing ACC, RESULT and a 0 to RECOV keeps it. -/
theorem inv_of_recov_zero {s t : State} (hs : Inv s) (ho : t.outcome = s.outcome) (hi : t.ill = s.ill)
    (hc : t.illc = s.illc) (hr : t.recov = 0#1) : Inv t := by
  obtain ⟨ho5, ho6, hc4, hic, _⟩ := hs
  exact ⟨by rwa [ho], by rwa [ho], by rwa [hc], by rwa [hi, hc], by simp [hr]⟩

/-- The end of a check keeps the invariant: the code is 0 to 4, and RECOV is 1 with CRC_ERROR's only (R18, R19). -/
theorem inv_check {s : State} (hs : Inv s) (o : ErrorOutcome) :
    Inv { s with outcome := outcomeCode o, recov := recoveryRequest o } := by
  obtain ⟨_, _, hc4, hic, _⟩ := hs
  obtain ⟨hle, hrec⟩ := check_values o
  have ho5 : outcomeCode o ≠ 5#3 := fun h => by simp [h] at hle
  have ho6 : outcomeCode o ≠ 6#3 := fun h => by simp [h] at hle
  exact ⟨ho5, ho6, hc4, hic, hrec.1⟩

/-- An illegal word keeps the invariant: with ILL 0 it records a code of 1 to 4; with ILL 1 ILLC holds one already (R99). -/
theorem inv_raiseIllegal {s : State} (hs : Inv s) (c : IllegalCause) : Inv (raiseIllegal c s) := by
  obtain ⟨ho5, ho6, hc4, hic, hrec⟩ := hs
  refine ⟨ho5, ho6, ?_, ?_, hrec⟩ <;> rw [raiseIllegal_illc]
  all_goals by_cases hill : s.ill = 0#1
  · simpa [hill] using (causeCode_range c).2
  · simpa [hill] using hc4
  · simpa [hill] using causeCode_ne_zero c
  · simpa [hill] using fun h => hill (hic.2 h)

/-- Every word keeps the invariant. -/
theorem issue_keeps_inv {w : OpWord} {s t : State} (hs : Inv s) (h : issue w s = .next t) : Inv t := by
  rcases issue_cases w s with ⟨_, _, ⟨_, _, e⟩ | ⟨_, _, e⟩ | ⟨_, o, e⟩⟩ | ⟨c, _, e⟩ <;> cases e.symm.trans h
  · exact inv_of_recov_zero hs rfl rfl rfl rfl
  · exact inv_of_recov_zero hs rfl rfl rfl rfl
  · exact inv_check hs o
  · exact inv_raiseIllegal hs c

/-- Settles O54: a step is idle, a reset, or a word; the invariant does not speak of the port. -/
theorem stepKeepsInv : Obligations.StepKeepsInv := by
  intro s t hs h
  rcases step_cases s with ⟨_, e⟩ | ⟨_, _, e⟩ | ⟨w, rest, _, e⟩ <;> rw [e] at h
  · cases h
    exact hs
  · cases h
    exact resetSatisfiesInv
  · exact issue_keeps_inv (s := s.setPort rest) hs h

/-! ## Steps and the port -/

/-- Settles O10: taking the event leaves the rest, and neither a word nor a reset changes it. -/
theorem stepConsumesOneEvent : Obligations.StepConsumesOneEvent := by
  intro s t h
  rcases step_cases s with ⟨hp, e⟩ | ⟨rest, hp, e⟩ | ⟨w, rest, hp, e⟩ <;> rw [e] at h <;> rw [hp, List.tail]
  · cases h
    exact hp
  · cases h
    rfl
  · exact issue_port h

/-- A step with words presented runs the first of them, with the others still presented. -/
theorem step_present_cons (w : OpWord) (ws : List OpWord) (s : State) :
    step (s.present (w :: ws)) = issue w (s.present ws) :=
  step_op (State.present_port s (w :: ws))

/-- A word does the same with more words presented after it, and leaves them presented. -/
theorem issue_present {w : OpWord} {s t : State} (ws : List OpWord) (h : issue w s = .next t) :
    issue w (s.present ws) = .next (t.present ws) := by
  unfold State.present
  rw [issue_port h]
  exact issue_setPort _ h

/-- A run of one step and more goes on from the step's next state. -/
theorem run_succ_of_step {M : Host.Core} {s t : M.State} (n : Nat) (h : M.step s = .next t) :
    M.run (n + 1) s = M.run n t := by
  rw [Host.Core.run, h]

/-- A run of a first word and more is the run from the word's next state. -/
theorem issueAll_cons_of_issue {w : OpWord} {s t : State} (ws : List OpWord) (h : issue w s = .next t) :
    issueAll (w :: ws) s = issueAll ws t := by
  simp [issueAll, h]

/-- Settles O12, by induction on the words: each step runs the first word and leaves the others presented. -/
theorem stepsRunPresentedWords : Obligations.StepsRunPresentedWords := by
  intro ws
  induction ws with
  | nil => exact fun s => rfl
  | cons w ws ih =>
    intro s
    obtain ⟨t, ht⟩ := issue_total w s
    have hstep : core.step (s.present (w :: ws)) = .next (t.present ws) :=
      (step_present_cons w ws s).trans (issue_present ws ht)
    have hrun : Host.Core.run core (ws.length + 1) (s.present (w :: ws)) = issueAll ws t :=
      (run_succ_of_step ws.length hstep).trans (ih t)
    exact hrun.trans (issueAll_cons_of_issue ws ht).symm

/-- Settles O13: the reset state, field by field, and the reset event as one record. -/
theorem resetValues : Obligations.ResetValues :=
  ⟨State.reset_acc, State.reset_result, State.reset_outcome, State.reset_recov, State.reset_ill, State.reset_illc,
    applyReset_eq⟩

/-! ## Who writes and who reads each register -/

/-- Settles O49: a well-formed operation has one of three shapes, and an ill-formed one writes ILL and ILLC only. -/
theorem eachRegisterHasItsWriters : Obligations.EachRegisterHasItsWriters := by
  intro i s t h
  cases hw : i.wellFormed with
  | true =>
    rcases exec_cases i s hw with ⟨hk, _, e⟩ | ⟨hk, _, e⟩ | ⟨hk, _, e⟩ <;> cases e.symm.trans h <;> simp [hk]
  | false =>
    obtain ⟨c, _, e⟩ := exec_ill_formed i s hw
    cases e.symm.trans h
    simp

/-- From two states that agree on what a well-formed operation reads, it writes the same values: its next state from the second
is the second state with the registers that it writes taken from its next state from the first (R16). -/
theorem exec_writes_same {i : Instr} {s s' t : State} (hw : i.wellFormed = true) (h : exec i s = .next t)
    (hacc : readsAcc i = true → s.acc = s'.acc) (hout : readsOutcome i = true → s.outcome = s'.outcome) :
    exec i s' = .next
      { s' with
        acc := if writesAcc i then t.acc else s'.acc
        result := if writesResult i then t.result else s'.result
        outcome := if isCheck i then t.outcome else s'.outcome
        recov := t.recov } := by
  cases i with
  | crcByte _ | crcWord _ | crcFinal | safetyCheck _ =>
    cases h
    rw [hacc rfl]
    rfl
  | dataGate _ =>
    cases h
    rw [hout rfl]
    rfl
  | encNamed sel =>
    obtain ⟨n, hn⟩ := namedOfSel_eq_some (sel := sel) (by simpa [Instr.wellFormed] using hw)
    simp only [exec, execEncNamed, hn] at h ⊢
    cases h
    rfl
  | bslice hi lo d =>
    have hle : lo.toNat ≤ hi.toNat := by simpa [Instr.wellFormed] using hw
    cases (execBslice_eq hle d s).symm.trans h
    exact execBslice_eq hle d s'
  | _ =>
    cases h
    rfl

/-- Settles O50: the registers that the operation writes are the same from both states. -/
theorem eachRegisterHasItsReaders : Obligations.EachRegisterHasItsReaders := by
  intro i s s' t t' hw ht ht' hacc hout
  cases (exec_writes_same hw ht hacc hout).symm.trans ht'
  refine ⟨fun hk => ?_, fun hk => ?_, fun hk => ?_, rfl⟩ <;> simp [hk]

/-! ## OUTCOME between checks -/

/-- A word that is no legal `safety.check` keeps OUTCOME (R18). -/
theorem issue_keeps_outcome {w : OpWord} {s t : State} (hw : isCheckWord w = false) (h : issue w s = .next t) :
    t.outcome = s.outcome := by
  rcases issue_cases w s with ⟨_, hd, ⟨_, _, e⟩ | ⟨_, _, e⟩ | ⟨hk, _, e⟩⟩ | ⟨_, _, e⟩
  case inl.inr.inr => simp [isCheckWord_legal hd, hk] at hw
  all_goals
    cases e.symm.trans h
    rfl

/-- The same over a run of words. -/
theorem issueAll_keeps_outcome {ws : List OpWord} {s t : State} (hws : ∀ w ∈ ws, isCheckWord w = false)
    (h : issueAll ws s = .next t) : t.outcome = s.outcome := by
  induction ws generalizing s with
  | nil =>
    cases h
    rfl
  | cons w ws ih =>
    obtain ⟨hw, hws⟩ := List.forall_mem_cons.1 hws
    obtain ⟨u, hu, h⟩ := issueAll_cons_eq_next.1 h
    exact (ih hws h).trans (issue_keeps_outcome hw hu)

/-- Settles O37: OUTCOME is still the reset value 7, which is not OK, so the gate gives 0. -/
theorem outcomeKeptUntilNextCheck : Obligations.OutcomeKeptUntilNextCheck := by
  refine ⟨fun ws s t => issueAll_keeps_outcome, fun ws s t d hr hws h => ?_⟩
  have hs : s.outcome = 7#3 := congrArg Outputs.outcome hr
  have ht : t.outcome = 7#3 := (issueAll_keeps_outcome hws h).trans hs
  exact ⟨ht, _, execDataGate_eq d t, by simp [ht]⟩

/-! ## The illegal flag and the recovery request -/

/-- Settles O15: an idle step changes nothing, and a word keeps a recorded cause. -/
theorem illegalFlagIsSticky : Obligations.IllegalFlagIsSticky := by
  constructor
  · intro s t hnr h hill
    rcases step_cases s with ⟨_, e⟩ | ⟨_, hp, _⟩ | ⟨w, rest, _, e⟩
    · cases e.symm.trans h
      exact ⟨hill, rfl⟩
    · simp [hp] at hnr
    · exact issue_keeps_recorded_cause (s := s.setPort rest) hill (e.symm.trans h)
  · intro w s t hw h
    obtain ⟨i, hd⟩ := legalWord_iff.1 hw
    exact issue_legal_keeps_ill hd h

/-- After a check RECOV is 1 exactly where OUTCOME is CRC_ERROR (R19, R68). -/
theorem execSafetyCheck_recov {d : DataWord} {s t : State} (h : exec (.safetyCheck d) s = .next t) :
    t.recov = 1#1 ↔ t.outcome = 4#3 := by
  cases (execSafetyCheck_eq d s).symm.trans h
  exact (check_values _).2

/-- Settles O51: a check writes RECOV with its outcome, any other legal word writes 0, an illegal word keeps it. -/
theorem recoveryRequestLastsToNextLegalWord : Obligations.RecoveryRequestLastsToNextLegalWord := by
  intro w s t h
  cases hd : decode w with
  | illegal c =>
    cases (issue_illegal hd s).symm.trans h
    simp [legalWord, hd]
  | legal i =>
    rw [issue_legal hd] at h
    have hl : legalWord w = true := legalWord_iff.2 ⟨i, hd⟩
    cases hk : isCheck i with
    | true =>
      obtain ⟨d, rfl⟩ := isCheck_iff.1 hk
      simp [hl, execSafetyCheck_recov h]
    | false =>
      obtain ⟨_, _, _, _, hrecov, _⟩ := eachRegisterHasItsWriters i s t h
      have hne : ∀ d, i ≠ .safetyCheck d := fun d hid => by simp [isCheck_iff.2 ⟨d, hid⟩] at hk
      simp [hl, hne, hrecov (decode_wellFormed hd) hk]

end Sys2Proof.Machine

/-! SUPPORT. The proof of the family 20_memory.md: the byte order in which a word is fed to the CRC generator (R30, R65), on the
operation words themselves. -/

namespace Sys2Proof.Machine

open Sys2Proof.Laws

/-! ## The words of the two feeding operations -/

/-- An operand in the low bits of a word whose own low bits are 0 is read back as it was (R41, R42). -/
theorem extractLsb_or_setWidth {hi : Nat} (hhi : hi < 32) {v : OpWord} (hv : v.extractLsb hi 0 = 0#(hi - 0 + 1))
    (d : BitVec (hi - 0 + 1)) : (v ||| d.setWidth 32).extractLsb hi 0 = d := by
  apply BitVec.eq_of_getLsbD_eq
  intro k hk
  have hvk : v.getLsbD (0 + k) = false := (extractLsb_eq_zero_iff v).1 hv k (by omega)
  have hdk : (d.setWidth 32).getLsbD (0 + k) = d.getLsbD k := by
    rw [BitVec.getLsbD_setWidth, Nat.zero_add, decide_eq_true (by omega : k < 32), Bool.true_and]
  rw [BitVec.getLsbD_extractLsb, decide_eq_true hk, BitVec.getLsbD_or, hvk, hdk]
  rfl

theorem decode_encode_crcByte (b : Byte) : decode (encode (.crcByte b)) = .legal (.crcByte b) := by
  obtain ⟨hc, hr⟩ := EncodingShape.crcByte b
  have hb : (encode (.crcByte b)).extractLsb 7 0 = b := extractLsb_or_setWidth (hi := 7) (by decide) (by decide) b
  exact decode_legal_of_fields hc hr (congrArg Instr.crcByte hb) rfl

theorem decode_encode_crcWord (d : DataWord) : decode (encode (.crcWord d)) = .legal (.crcWord d) := by
  obtain ⟨hc, hr⟩ := EncodingShape.crcWord d
  have hd : (encode (.crcWord d)).extractLsb 15 0 = d := extractLsb_or_setWidth (hi := 15) (by decide) (by decide) d
  exact decode_legal_of_fields hc hr (congrArg Instr.crcWord hd) rfl

/-- The whole effect of the word of `crc.byte` (R64). -/
theorem issue_encode_crcByte (b : Byte) (s : State) :
    issue (encode (.crcByte b)) s = .next { s with acc := crcStep s.acc b, recov := 0#1 } :=
  (issue_legal (decode_encode_crcByte b) s).trans (execCrcByte_eq b s)

/-- The whole effect of the word of `crc.word` (R65). -/
theorem issue_encode_crcWord (d : DataWord) (s : State) :
    issue (encode (.crcWord d)) s = .next { s with acc := crcFold s.acc (wordBytes d), recov := 0#1 } :=
  (issue_legal (decode_encode_crcWord d) s).trans (execCrcWord_eq d s)

/-! ## Runs of feeding words -/

/-- Feeding one byte after another, word by word, is one fold over the bytes. -/
theorem issueAll_encode_crcBytes (b : Byte) (bs : List Byte) (s : State) :
    issueAll ((b :: bs).map fun c => encode (.crcByte c)) s = .next { s with acc := crcFold s.acc (b :: bs), recov := 0#1 } := by
  induction bs generalizing b s with
  | nil => exact issueAll_cons_of_issue [] (issue_encode_crcByte b s)
  | cons c cs ih => exact (issueAll_cons_of_issue _ (issue_encode_crcByte b s)).trans (ih c _)

/-- Settles O26: both runs answer the fold over the word's bytes, high byte first, with RECOV 0. -/
theorem crcWordIsTwoCrcBytes : Obligations.CrcWordIsTwoCrcBytes := by
  intro d s
  calc issueAll [encode (.crcWord d)] s
    _ = .next { s with acc := crcFold s.acc (wordBytes d), recov := 0#1 } :=
      issueAll_cons_of_issue [] (issue_encode_crcWord d s)
    _ = issueAll [encode (.crcByte (d.extractLsb 15 8)), encode (.crcByte (d.extractLsb 7 0))] s :=
      (issueAll_encode_crcBytes (d.extractLsb 15 8) [d.extractLsb 7 0] s).symm

end Sys2Proof.Machine

/-! SUPPORT. The proofs of the family 30_encoding.md: the fields of a word (R38 to R46), the round trips between operations and
words (R53, R55 to R58), the order of the decoder's tests and the opcode table (R53, R54, R98), the named constants and the
safety word's fields (R76, R90), and what the words of the pseudo-instructions do (R59, R70, R78). -/

namespace Sys2Proof

open Sys2Proof.Laws Sys2Proof.Machine Sys2Proof.Safety

/-! ## Fields of a word

A word is a disjunction of operands, each shifted to its field; `BitVec.extractLsb_or` and these rules read a field back. -/

/-- An operand is read back from the field it is shifted to. -/
@[simp] theorem extractLsb_shiftLeft_setWidth {W n hi lo : Nat} (d : BitVec n) (hn : n = hi - lo + 1) (hle : lo ≤ hi)
    (hhi : hi < W) : (d.setWidth W <<< lo).extractLsb hi lo = d.cast hn := by
  subst hn
  apply BitVec.eq_of_getLsbD_eq
  intro k hk
  simp [hk, show lo + k < W by omega]

/-- Below the shift every field is 0. -/
@[simp] theorem extractLsb_shiftLeft_of_lt {W hi lo l : Nat} (x : BitVec W) (hle : lo ≤ hi) (h : hi < l) :
    (x <<< l).extractLsb hi lo = 0#(hi - lo + 1) := by
  refine (extractLsb_eq_zero_iff _).2 fun k hk => ?_
  simp [show lo + k < l by omega]

/-- Above a shifted operand every field is 0. -/
@[simp] theorem extractLsb_shiftLeft_setWidth_of_le {W n hi lo l : Nat} (d : BitVec n) (h : l + n ≤ lo) :
    (d.setWidth W <<< l).extractLsb hi lo = 0#(hi - lo + 1) := by
  refine (extractLsb_eq_zero_iff _).2 fun k _ => ?_
  simp [d.getLsbD_of_ge (lo + k - l) (by omega)]

/-- Above a word's width every field is 0. -/
@[simp] theorem extractLsb_of_width_le {n hi lo : Nat} (d : BitVec n) (h : n ≤ lo) :
    d.extractLsb hi lo = 0#(hi - lo + 1) := by
  refine (extractLsb_eq_zero_iff _).2 fun k _ => ?_
  exact d.getLsbD_of_ge (lo + k) (by omega)

/-- Widening with zeros adds no field. -/
@[simp] theorem extractLsb_setWidth_of_width_le {W n hi lo : Nat} (d : BitVec n) (h : n ≤ lo) :
    (d.setWidth W).extractLsb hi lo = 0#(hi - lo + 1) := by
  simpa using extractLsb_shiftLeft_setWidth_of_le (W := W) (hi := hi) (l := 0) d (by omega)

/-- The field of all bits is the word. -/
@[simp] theorem extractLsb_all {n hi : Nat} (d : BitVec n) (hn : n = hi - 0 + 1) : d.extractLsb hi 0 = d.cast hn := by
  subst hn
  exact BitVec.extractLsb'_eq_self

/-- Words that agree in a field and in all bits below it agree in both together. -/
theorem extractLsb_join {n hi mid : Nat} {v w : BitVec n} (hhigh : v.extractLsb hi (mid + 1) = w.extractLsb hi (mid + 1))
    (hlow : v.extractLsb mid 0 = w.extractLsb mid 0) : v.extractLsb hi 0 = w.extractLsb hi 0 := by
  apply BitVec.eq_of_getLsbD_eq
  intro k hk
  have hk' : k ≤ hi := Nat.le_of_lt_succ hk
  by_cases hm : k ≤ mid
  · simpa [hk', Nat.lt_succ_of_le hm] using getLsbD_of_extractLsb hlow k hm
  · have h := getLsbD_of_extractLsb hhigh (k - (mid + 1)) (by omega)
    simpa [show mid + 1 + (k - (mid + 1)) = k by omega, hk', show k - (mid + 1) < hi - (mid + 1) + 1 by omega] using h

/-! ## Operations and their words -/

/-- Every operation's word carries its OPC, and zeros in the bits that its format reserves. -/
theorem encodingShape (i : Instr) : EncodingShape.Statement i := by
  cases i with
  | crcInit => exact EncodingShape.crcInit
  | crcByte b => exact EncodingShape.crcByte b
  | crcWord d => exact EncodingShape.crcWord d
  | crcFinal => exact EncodingShape.crcFinal
  | safetyCheck d => exact EncodingShape.safetyCheck d
  | encCmd rw access upd addr nd => exact EncodingShape.encCmd rw access upd addr nd
  | encNamed sel => exact EncodingShape.encNamed sel
  | dataGate d => exact EncodingShape.dataGate d
  | dec15 d => exact EncodingShape.dec15 d
  | dec9 d => exact EncodingShape.dec9 d
  | extRange d => exact EncodingShape.extRange d
  | extFir d => exact EncodingShape.extFir d
  | extPred d => exact EncodingShape.extPred d
  | bslice hi lo d => exact EncodingShape.bslice hi lo d

/-- The operands read from an operation's word are its own (R40 to R45, R58). -/
theorem readOperands_encode (i : Instr) : readOperands i.opcode (encode i) = i := by
  cases i with
  | crcInit | crcFinal => rfl
  | _ => simp [Instr.opcode, readOperands, encode, BitVec.extractLsb_or]

/-- A well-formed operation's word decodes to it. -/
theorem decode_encode {i : Instr} (hw : i.wellFormed = true) : decode (encode i) = .legal i := by
  obtain ⟨hc, hr⟩ := encodingShape i
  exact decode_legal_of_fields hc hr (readOperands_encode i) hw

/-- Settles O2: the word carries the operation's OPC, zeros in the reserved bits, and its operands. -/
theorem decodeOfEncode : Obligations.DecodeOfEncode := fun _ => decode_encode

/-- A word is determined by its OPC, its operands, and zeros in the reserved bits: a format's fields cover all 32 bits. -/
theorem word_eq_of_fields {o : Opcode} {v w : OpWord} (hc : opcField v = opcField w)
    (hv : o.format.reservedClear v = true) (hw : o.format.reservedClear w = true)
    (ho : readOperands o v = readOperands o w) : v = w := by
  suffices h : v.extractLsb 27 0 = w.extractLsb 27 0 by simpa using extractLsb_join (hi := 31) hc h
  cases o with
  | crcInit | crcFinal => exact (eq_of_beq hv).trans (eq_of_beq hw).symm
  | crcByte =>
    injection ho with hb
    exact extractLsb_join ((eq_of_beq hv).trans (eq_of_beq hw).symm) hb
  | encCmd =>
    injection ho with hrw haccess hupd haddr hnd
    exact extractLsb_join hrw <| extractLsb_join haccess <| extractLsb_join hupd <| extractLsb_join haddr <|
      extractLsb_join hnd <| (eq_of_beq hv).trans (eq_of_beq hw).symm
  | encNamed =>
    injection ho with hsel
    exact extractLsb_join hsel <| (eq_of_beq hv).trans (eq_of_beq hw).symm
  | bslice =>
    injection ho with hhi hlo hd
    exact extractLsb_join hhi <| extractLsb_join hlo <| extractLsb_join ((eq_of_beq hv).trans (eq_of_beq hw).symm) hd
  | crcWord | safetyCheck | dataGate | dec15 | dec9 | extRange | extFir | extPred =>
    injection ho with hd
    exact extractLsb_join ((eq_of_beq hv).trans (eq_of_beq hw).symm) hd

/-- Settles O3: the word and the encoding of its operation have the same OPC, the same operands and no reserved bit set. -/
theorem encodeOfDecode : Obligations.EncodeOfDecode := by
  intro w i h
  obtain ⟨o, hc, hr, hi, hw⟩ := decode_eq_legal h
  obtain rfl : i.opcode = o := by rw [hi, readOperands_opcode]
  obtain ⟨hc', hr'⟩ := encodingShape i
  exact ⟨hw, word_eq_of_fields (hc'.trans hc.symm) hr' hr ((readOperands_encode i).trans hi)⟩

/-! ## The order of the decoder's tests -/

/-- OPC as a number. -/
theorem opcField_toNat (w : OpWord) : (opcField w).toNat = w.toNat / 2 ^ 28 := by
  rw [opcField, BitVec.extractLsb_toNat, Nat.shiftRight_eq_div_pow]
  exact Nat.mod_eq_of_lt (by omega)

/-- A field is 0 exactly when the mask `m` of its bits leaves nothing of the word. -/
theorem fieldClear_iff_mask (hi lo : Nat) (w m : OpWord) (hhi : hi < 32 := by decide)
    (hm : ∀ k < 32, m.getLsbD k = (decide (lo ≤ k) && decide (k ≤ hi)) := by decide) (hle : lo ≤ hi := by decide) :
    (w.extractLsb hi lo == 0#(hi - lo + 1)) = true ↔ w &&& m = 0#32 :=
  beq_iff_eq.trans (and_mask_eq_zero_iff w m hhi hm hle).symm

/-- A format's reserved bits are those of the mask for its operation's OPC (R40 to R45). -/
theorem reservedClear_iff_mask (o : Opcode) (w : OpWord) :
    o.format.reservedClear w = true ↔ w &&& reservedMask o.code.toNat = 0#32 := by
  cases o with
  | crcInit | crcFinal => exact fieldClear_iff_mask 27 0 w _
  | crcByte => exact fieldClear_iff_mask 27 8 w _
  | encCmd => exact fieldClear_iff_mask 11 0 w _
  | encNamed => exact fieldClear_iff_mask 23 0 w _
  | bslice => exact fieldClear_iff_mask 19 16 w _
  | crcWord | safetyCheck | dataGate | dec15 | dec9 | extRange | extFir | extPred => exact fieldClear_iff_mask 27 16 w _

/-- A word with OPC 0xE or 0xF fails the first test. -/
theorem firstFailingTest_reservedOpcode {w : OpWord} (h : 14 ≤ (opcField w).toNat) : firstFailingTest w = some 1#3 := by
  have hopc : w.toNat / 2 ^ 28 = 0xE ∨ w.toNat / 2 ^ 28 = 0xF := by
    rw [← opcField_toNat]
    omega
  exact if_pos hopc

/-- A word with an operation's code: its format's mask decides, then the range of its operands. -/
theorem firstFailingTest_of_code {w : OpWord} {o : Opcode} (h : opcField w = o.code) :
    firstFailingTest w =
      if o.format.reservedClear w then (readOperands o w).rangeCause.map causeCode else some 2#3 := by
  have hopc : ¬(o.code.toNat = 0xE ∨ o.code.toNat = 0xF) := by cases o <;> decide
  simp only [firstFailingTest, ← opcField_toNat, h, if_neg hopc, reservedClear_iff_mask, ne_eq, ite_not]
  congr 1
  cases o with
  | encNamed =>
    by_cases hsel : 10 < (w.extractLsb 27 24).toNat <;>
      simp [Opcode.code, readOperands, Instr.rangeCause, causeCode, hsel, -BitVec.extractLsb_toNat]
  | bslice =>
    by_cases hlo : (w.extractLsb 27 24).toNat < (w.extractLsb 23 20).toNat <;>
      simp [Opcode.code, readOperands, Instr.rangeCause, causeCode, hlo, -BitVec.extractLsb_toNat]
  | _ => rfl

/-- The tests of R53 written with masks find the cause that the decoder finds. -/
theorem firstFailingTest_eq (w : OpWord) :
    firstFailingTest w =
      match decode w with
      | .legal _ => none
      | .illegal c => some (causeCode c) := by
  cases ho : Opcode.ofCode (opcField w) with
  | none =>
    have h := (Opcode.ofCode_eq_none _).1 ho
    rw [decode_reservedOpcode h, firstFailingTest_reservedOpcode h]
    rfl
  | some o =>
    have hc := ((Opcode.ofCode_eq_some _ _).1 ho).symm
    rw [firstFailingTest_of_code hc, decode_of_code hc]
    split
    · cases (readOperands o w).rangeCause <;> rfl
    · rfl

/-- Every format reserves some bit, so every operation can raise cause 2: the word has them all set. -/
theorem exists_reservedField (o : Opcode) : ∃ w : OpWord, opcField w = o.code ∧ decode w = .illegal .reservedField := by
  have hc : opcField (o.matchBits ||| reservedMask o.code.toNat) = o.code := by cases o <;> decide
  have hr : o.format.reservedClear (o.matchBits ||| reservedMask o.code.toNat) = false := by cases o <;> decide
  exact ⟨_, hc, by simp [decode_of_code hc, hr]⟩

/-- Settles O4: the tests written with masks find the decoder's own cause, and the word is run by what it decodes to. -/
theorem firstFailingTestDecides : Obligations.FirstFailingTestDecides := by
  refine ⟨fun w => ?_, exists_reservedField⟩
  have hf := firstFailingTest_eq w
  cases hd : decode w with
  | legal i => exact ⟨by rw [hf, hd], issue_legal hd⟩
  | illegal c => exact ⟨by rw [hf, hd], issue_illegal hd⟩

/-! ## The opcode table -/

/-- The mask column is OPC and the bits that the format reserves. -/
theorem matchMask_eq (o : Opcode) : o.matchMask = 0xF0000000#32 ||| reservedMask o.code.toNat := by
  cases o <;> rfl

/-- The match column is the code in OPC. -/
theorem matchBits_eq (o : Opcode) : o.matchBits = o.code.setWidth 32 <<< 28 := by
  cases o <;> rfl

/-- OPC of a word whose OPC is not masked away. -/
theorem opcField_and {w m : OpWord} (hm : opcField m = 0xF#4) : opcField (w &&& m) = opcField w := by
  unfold opcField at hm ⊢
  rw [BitVec.extractLsb_and, hm]
  exact BitVec.and_allOnes

/-- OPC alone. -/
theorem and_opcMask (w : OpWord) : w &&& 0xF0000000#32 = (opcField w).setWidth 32 <<< 28 := by
  have hhigh : opcField (w &&& 0xF0000000#32) = opcField ((opcField w).setWidth 32 <<< 28) := by
    rw [opcField_and rfl]
    simp [opcField]
  have hlow : (w &&& 0xF0000000#32).extractLsb 27 0 = ((opcField w).setWidth 32 <<< 28).extractLsb 27 0 := by
    simp [BitVec.extractLsb_and]
  simpa using extractLsb_join (hi := 31) hhigh hlow

/-- A row's match and mask say that the word has its OPC and no reserved bit set. -/
theorem and_matchMask_eq_iff (o : Opcode) (w : OpWord) :
    w &&& o.matchMask = o.matchBits ↔ opcField w = o.code ∧ o.format.reservedClear w = true := by
  rw [reservedClear_iff_mask]
  constructor
  · intro h
    have hbits : opcField o.matchBits = o.code := by cases o <;> rfl
    have hmask : opcField o.matchMask = 0xF#4 := by cases o <;> rfl
    have hclear : o.matchBits &&& reservedMask o.code.toNat = 0#32 := by cases o <;> rfl
    have hsub : o.matchMask &&& reservedMask o.code.toNat = reservedMask o.code.toNat := by cases o <;> rfl
    constructor
    · rw [← hbits, ← h, opcField_and hmask]
    · rw [← hsub, ← BitVec.and_assoc, h, hclear]
  · rintro ⟨hc, hr⟩
    rw [matchMask_eq, BitVec.and_or_distrib_left, hr, BitVec.or_zero, and_opcMask, hc, matchBits_eq]

/-- A row's constraint says that the operands it reads are well formed (R56). -/
theorem rowConstraint_iff (o : Opcode) (w : OpWord) :
    ((o = .encNamed → (w.extractLsb 27 24).toNat ≤ 10) ∧
      (o = .bslice → (w.extractLsb 23 20).toNat ≤ (w.extractLsb 27 24).toNat)) ↔
    (readOperands o w).wellFormed = true := by
  cases o with
  | encNamed => exact ⟨fun h => decide_eq_true (h.1 rfl), fun h => ⟨fun _ => of_decide_eq_true h, nofun⟩⟩
  | bslice => exact ⟨fun h => decide_eq_true (h.2 rfl), fun h => ⟨nofun, fun _ => of_decide_eq_true h⟩⟩
  | _ => exact ⟨fun _ => rfl, fun _ => ⟨nofun, nofun⟩⟩

/-- A row admits exactly the words that pass the tests of R53 for its operation. -/
theorem rowAdmits_iff (o : Opcode) (w : OpWord) :
    rowAdmits o w ↔ opcField w = o.code ∧ o.format.reservedClear w = true ∧ (readOperands o w).wellFormed = true := by
  rw [rowAdmits, and_matchMask_eq_iff, rowConstraint_iff, and_assoc]

/-- Settles O5: a word is legal exactly when it passes the tests of R53 for some operation. -/
theorem legalWordsAreTheTable : Obligations.LegalWordsAreTheTable := by
  intro w
  simp only [legalWord_iff, rowAdmits_iff]
  constructor
  · rintro ⟨i, hd⟩
    obtain ⟨o, hc, hr, rfl, hw⟩ := decode_eq_legal hd
    exact ⟨o, hc, hr, hw⟩
  · rintro ⟨o, hc, hr, hw⟩
    have hrange := (rangeCause_eq_none _).2 hw
    exact ⟨readOperands o w, by simp [decode_of_code hc, hr, hrange]⟩

end Sys2Proof

namespace Sys2Proof.Machine

/-! ## Sensor commands and safety words -/

/-- The fields of a packed command are the command's own (R46). -/
theorem unpackCommand_packCommand (c : Command) : unpackCommand (packCommand c) = c := by
  simp [unpackCommand, packCommand, BitVec.extractLsb_or]

/-- The five fields cover all 16 bits. -/
theorem unpackCommand_injective : Function.Injective unpackCommand := by
  intro d e h
  injection h with hrw haccess hupd haddr hnd
  have hall : d.extractLsb 15 0 = e.extractLsb 15 0 :=
    extractLsb_join hrw <| extractLsb_join haccess <| extractLsb_join hupd <| extractLsb_join haddr hnd
  simpa using hall

/-- Settles O6: packing then unpacking gives the fields back, and the fields determine the word. -/
theorem commandFieldsRoundTrip : Obligations.CommandFieldsRoundTrip :=
  ⟨unpackCommand_packCommand, fun _ => unpackCommand_injective (unpackCommand_packCommand _)⟩

/-- The value column of R47 is the packing of its field columns. -/
theorem packCommand_namedFields (n : NamedCommand) : packCommand (namedFields n) = namedValue n := by
  cases n <;> rfl

/-- Settles O34: both operations write the one constant to RESULT. -/
theorem namedConstantIsItsFields : Obligations.NamedConstantIsItsFields := by
  intro n s
  refine (execEncNamed_eq n s).trans ?_
  rw [← packCommand_namedFields]
  exact (execEncCmd_eq _ _ _ _ _ s).symm

/-- Settles O48: each field of R49 is a slice of the word. -/
theorem safetyFieldsReadBySlices : Obligations.SafetyFieldsReadBySlices := by
  intro sw s
  refine ⟨?_, ?_, ?_, ?_, ?_, ?_⟩ <;> exact execBslice_eq (by decide) sw s

/-- Settles O1, by running the decoder on the ten words. -/
theorem sampleWordsDecode : Obligations.SampleWordsDecode := by
  unfold Obligations.SampleWordsDecode
  decide

/-! ## The words of the pseudo-instructions -/

/-- A well-formed operation's word runs the operation. -/
theorem issue_encode {i : Instr} (hw : i.wellFormed = true) (s : State) : issue (encode i) s = exec i s :=
  issue_legal (decode_encode hw) s

/-- Feeding one register word after another is one fold over their bytes. -/
theorem issueAll_encode_crcWords (d : DataWord) (ds : List DataWord) (s : State) :
    issueAll ((d :: ds).map fun e => encode (.crcWord e)) s =
      .next { s with acc := crcFold s.acc ((d :: ds).flatMap wordBytes), recov := 0#1 } := by
  induction ds generalizing d s with
  | nil => exact issueAll_cons_of_issue [] (issue_encode_crcWord d s)
  | cons e es ih =>
    refine (issueAll_cons_of_issue _ (issue_encode_crcWord d s)).trans ((ih e _).trans ?_)
    rw [List.flatMap_cons (x := d), crcFold_append]

/-- A field of one bit. -/
theorem extractLsb_bit_eq_zero_iff {n : Nat} (w : BitVec n) (k : Nat) :
    w.extractLsb k k = 0#(k - k + 1) ↔ w.getLsbD k = false := by
  simp [extractLsb_eq_zero_iff]

/-- The check's tests on the fields of R49 are those of the source's `validate` on the word (R68, R70). -/
theorem checkOutcome_eq_validate (sw cmd : DataWord) (regs : List DataWord) :
    checkOutcome (crc8 (transactionBytes cmd regs)) (unpackSafety sw) = validate sw cmd regs := by
  have hsys : (unpackSafety sw).sysOk = 0#1 ↔ sw.getLsbD 14 = false := extractLsb_bit_eq_zero_iff sw 14
  have hif : (unpackSafety sw).ifOk = 0#1 ↔ sw.getLsbD 13 = false := extractLsb_bit_eq_zero_iff sw 13
  have hangle : (unpackSafety sw).angleOk = 0#1 ↔ sw.getLsbD 12 = false := extractLsb_bit_eq_zero_iff sw 12
  have hcrc : (unpackSafety sw).crc = sw.setWidth 8 := (BitVec.setWidth_eq_extractLsb' (by decide)).symm
  simp only [checkOutcome, validate, hsys, hif, hangle, hcrc]

/-- The words of `validate` leave the source's outcome, and ACC holds the transaction's CRC before the complement (R59, R70). -/
theorem issueAll_validate (cmd sw : DataWord) (regs : List DataWord) (s : State) :
    issueAll ((expandPseudo (.validate cmd sw regs)).map encode) s = .next
      { s with
        acc := crcFold crcSeed (transactionBytes cmd regs)
        outcome := outcomeCode (validate sw cmd regs)
        recov := recoveryRequest (validate sw cmd regs) } := by
  have hwords : (expandPseudo (.validate cmd sw regs)).map encode =
      encode .crcInit :: (((cmd :: regs).map fun e => encode (.crcWord e)) ++ [encode (.safetyCheck sw)]) := by
    simp [expandPseudo]
  have hinit := (issue_encode (i := .crcInit) rfl s).trans (execCrcInit_eq s)
  have hcheck (t : State) := (issue_encode (i := .safetyCheck sw) rfl t).trans (execSafetyCheck_eq sw t)
  rw [hwords, issueAll_cons_of_issue _ hinit, issueAll_append _ _ _ _ (issueAll_encode_crcWords cmd regs _),
    issueAll_cons_of_issue [] (hcheck _), ← checkOutcome_eq_validate]
  rfl

/-- Recovery is requested for CRC_ERROR only (R19). -/
theorem recoveryRequest_eq_one_iff (o : ErrorOutcome) : recoveryRequest o = 1#1 ↔ o = .crcError := by
  cases o <;> decide

/-- Settles O31: the run's last state, of which ACC is left open. -/
theorem validateSequenceComputesValidate : Obligations.ValidateSequenceComputesValidate := by
  intro s cmd sw regs
  refine ⟨_, issueAll_validate cmd sw regs s, rfl, ?_, rfl, rfl, rfl⟩
  exact recoveryRequest_eq_one_iff _

/-- The source's value is the outcome, and the data word where its code is 0 (R77, R78). -/
theorem readRegisterValue_eq (cmd data sw : DataWord) :
    readRegisterValue cmd data sw =
      (validate sw cmd [data], if outcomeCode (validate sw cmd [data]) = 0#3 then data else 0x0000#16) := by
  unfold readRegisterValue
  cases validate sw cmd [data] <;> rfl

/-- Settles O36: `readgated` is `validate` of the one data word, and then the gate on the outcome that it left. -/
theorem readgatedSequenceComputesReadRegister : Obligations.ReadgatedSequenceComputesReadRegister := by
  intro s cmd data sw
  have hwords : (expandPseudo (.readgated cmd data sw)).map encode =
      (expandPseudo (.validate cmd sw [data])).map encode ++ [encode (.dataGate data)] := rfl
  have hgate (t : State) := (issue_encode (i := .dataGate data) rfl t).trans (execDataGate_eq data t)
  rw [hwords, issueAll_append _ _ _ _ (issueAll_validate cmd sw [data] s), issueAll_cons_of_issue [] (hgate _),
    readRegisterValue_eq]
  exact ⟨_, rfl, rfl⟩

/-- The expansions of R59 have legal operands only. -/
theorem expandPseudo_wellFormed (p : Pseudo) : ∀ i ∈ expandPseudo p, i.wellFormed = true := by
  cases p <;> simp [expandPseudo, Instr.wellFormed, or_imp, forall_and]

/-- Settles O56: the expansions are the model's own, and their operations are well formed. -/
theorem pseudoExpansionsDecode : Obligations.PseudoExpansionsDecode :=
  ⟨fun _ _ => rfl, fun _ _ => rfl, fun _ _ _ => rfl, fun _ _ _ => rfl,
    fun p i hi => decode_encode (expandPseudo_wellFormed p i hi)⟩

end Sys2Proof.Machine

/-! SUPPORT. The proofs of the family 40_crc.md: the CRC step and the source's `crc8` (R60 to R62), the four operations of the CRC
generator (R63 to R66), a run of them (R67), and the bounds of the results (R66, R83, R85, R87). -/

namespace Sys2Proof.Machine

open Sys2Proof.Safety

/-! ## The CRC step (R60) -/

/-- Repeating the shift is folding it over a range, whose values it does not read. -/
theorem crcShifts_eq_foldl (n : Nat) (x : Byte) : crcShifts n x = (List.range n).foldl (fun y _ => crcShift y) x := by
  induction n generalizing x with
  | zero => rfl
  | succ n ih => rw [List.range_succ_eq_map, List.foldl_cons, List.foldl_map, crcShifts, ih]

/-- Settles O17: keeping the low 8 bits of a byte changes nothing, so each pass of the loop is one shift. -/
theorem crcStepIsTheLoop : Obligations.CrcStepIsTheLoop := by
  intro a b
  have hmask (x : Byte) : x &&& 0xFF#8 = x := BitVec.and_allOnes
  simp only [hmask]
  exact crcShifts_eq_foldl 8 (a ^^^ b)

/-- One shift is linear: the polynomial is added once for each operand whose bit 7 is set, and twice is not at all. -/
theorem crcShift_xor (x y : Byte) : crcShift (x ^^^ y) = crcShift x ^^^ crcShift y := by
  simp only [crcShift, BitVec.getLsbD_xor, BitVec.shiftLeft_xor_distrib]
  cases x.getLsbD 7 <;> cases y.getLsbD 7
  · rfl
  · exact BitVec.xor_assoc _ _ _
  · change (x <<< 1 ^^^ y <<< 1) ^^^ crcPoly = (x <<< 1 ^^^ crcPoly) ^^^ y <<< 1
    ac_rfl
  · calc x <<< 1 ^^^ y <<< 1
      _ = (x <<< 1 ^^^ y <<< 1) ^^^ (crcPoly ^^^ crcPoly) := by rw [BitVec.xor_self, BitVec.xor_zero]
      _ = (x <<< 1 ^^^ crcPoly) ^^^ (y <<< 1 ^^^ crcPoly) := by ac_rfl

theorem crcShifts_xor (n : Nat) (x y : Byte) : crcShifts n (x ^^^ y) = crcShifts n x ^^^ crcShifts n y := by
  induction n generalizing x y with
  | zero => rfl
  | succ n ih => rw [crcShifts, crcShift_xor, ih, ← crcShifts, ← crcShifts]

/-- Settles O19: the step shifts the exclusive or of its operands, and every shift is linear. -/
theorem crcStepLinear : Obligations.CrcStepLinear := by
  intro a a' b b'
  have hregroup : (a ^^^ a') ^^^ (b ^^^ b') = (a ^^^ b) ^^^ (a' ^^^ b') := by ac_rfl
  rw [crcStep_eq, hregroup, crcShifts_xor, ← crcStep_eq, ← crcStep_eq]

/-! ## The source's `crc8` (R61) -/

/-- Settles O18: a byte's complement is already within 8 bits, and the seed's complement is 0. -/
theorem crcEightFoldsAndComplements : Obligations.CrcEightFoldsAndComplements :=
  ⟨fun _ => BitVec.and_allOnes.symm, rfl⟩

/-- Different accumulators before the complement are different CRCs. -/
theorem crcComplement_injective : Function.Injective crcComplement := fun _ _ h => BitVec.not_inj.1 h

/-- Settles O21: the changed byte leaves another accumulator, and the bytes after it keep the two apart. -/
theorem changedByteChangesCrc : Obligations.ChangedByteChangesCrc := by
  intro before after b c hne h
  have hfold := crcComplement_injective h
  rw [crcFold_append, crcFold_append] at hfold
  exact hne (crcStep_right_injective _ (crcFold_injective after hfold))

/-! ## An accumulator of any width (R62) -/

/-- The low byte of a shift on a wider accumulator is the shift of the low byte: it depends on no higher bit. -/
theorem setWidth_wideShift {W : Nat} (hW : 8 ≤ W) (x : BitVec W) : (wideShift x).setWidth 8 = crcShift (x.setWidth 8) := by
  have hbit : (x.setWidth 8).getLsbD 7 = x.getLsbD 7 := by simp
  unfold wideShift crcShift
  rw [hbit]
  split
  · rw [BitVec.setWidth_xor, BitVec.setWidth_shiftLeft_of_le hW, BitVec.setWidth_setWidth_of_le _ hW, BitVec.setWidth_eq]
  · exact BitVec.setWidth_shiftLeft_of_le hW

theorem setWidth_wideShifts {W : Nat} (hW : 8 ≤ W) (n : Nat) (x : BitVec W) :
    (wideShifts n x).setWidth 8 = crcShifts n (x.setWidth 8) := by
  induction n generalizing x with
  | zero => rfl
  | succ n ih => rw [wideShifts, ih, setWidth_wideShift hW, ← crcShifts]

theorem setWidth_wideStep {W : Nat} (hW : 8 ≤ W) (a : BitVec W) (b : Byte) :
    (wideStep a b).setWidth 8 = crcStep (a.setWidth 8) b := by
  rw [wideStep, setWidth_wideShifts hW, BitVec.setWidth_xor, BitVec.setWidth_setWidth_of_le _ hW, BitVec.setWidth_eq,
    crcStep_eq]

/-- The low byte of the wide fold is the byte's fold. -/
theorem setWidth_foldl_wideStep {W : Nat} (hW : 8 ≤ W) (bytes : List Byte) :
    (bytes.foldl wideStep (crcSeed.setWidth W)).setWidth 8 = crcFold crcSeed bytes := by
  have hseed : (crcSeed.setWidth W).setWidth 8 = crcSeed :=
    (BitVec.setWidth_setWidth_of_le _ hW).trans (BitVec.setWidth_eq _)
  rw [← List.foldl_hom _ fun a b => (setWidth_wideStep hW a b).symm, hseed, crcFold]

/-- Settles O20: the low byte of every wide step is the step, and the complement acts on each bit alone. -/
theorem wideAccumulatorAgrees : Obligations.WideAccumulatorAgrees := by
  refine ⟨fun W bytes hW => ?_, fun W bytes hW => setWidth_foldl_wideStep hW bytes, by decide⟩
  rw [crc8Wide, BitVec.setWidth_not hW, setWidth_foldl_wideStep hW, crc8, crcComplement]

/-! ## The four operations, on every word of their OPC -/

/-- A word of an operation with no range condition: R99's effect with cause 2 if a reserved bit is set (`p`), else the
operation's own (R53). -/
theorem issue_of_code_no_range {w : OpWord} {o : Opcode} {s t : State} {p : Prop} [Decidable p] (hc : opcField w = o.code)
    (hr : (readOperands o w).rangeCause = none) (hp : o.format.reservedClear w = true ↔ ¬p)
    (he : exec (readOperands o w) s = .next t) : issue w s = .next (if p then afterIllegal 2#3 s else t) := by
  rw [issue_of_code hc, hr]
  by_cases h : p
  · rw [if_neg (by simpa [hp] using h), if_pos h, raiseIllegal_eq_afterIllegal, causeCode]
  · rw [if_pos (hp.2 h), if_neg h]
    exact he

/-- Settles O22: `crc.init` has no operand, so only the reserved bits decide. -/
theorem crcInitLoadsSeed : Obligations.CrcInitLoadsSeed :=
  ⟨rfl, execCrcInit_eq, fun w s hc =>
    issue_of_code_no_range (o := .crcInit) hc rfl (by simp [Opcode.format, Format.reservedClear]) (execCrcInit_eq s)⟩

/-- Settles O23: every byte is a legal operand, so only the reserved bits decide. -/
theorem crcByteFeedsOneByte : Obligations.CrcByteFeedsOneByte :=
  ⟨fun _ => rfl, execCrcByte_eq, fun w s hc =>
    issue_of_code_no_range (o := .crcByte) hc rfl (by simp [Opcode.format, Format.reservedClear]) (execCrcByte_eq _ s)⟩

/-- A field of a word's low bits is a field of the word. -/
theorem extractLsb_extractLsb_low {n hi lo top : Nat} (w : BitVec n) (h : hi ≤ top) (hle : lo ≤ hi) :
    (w.extractLsb top 0).extractLsb hi lo = w.extractLsb hi lo := by
  apply BitVec.eq_of_getLsbD_eq
  intro k hk
  have htop : lo + k ≤ top := by omega
  simp [hk, htop]

/-- The bytes of a word's data operand are bits 15:8 and 7:0 of the word (R42). -/
theorem wordBytes_extractLsb (w : OpWord) : wordBytes (w.extractLsb 15 0) = [w.extractLsb 15 8, w.extractLsb 7 0] := by
  rw [wordBytes, extractLsb_extractLsb_low w (by decide) (by decide), extractLsb_extractLsb_low w (by decide) (by decide)]

/-- Settles O24: the operand's two bytes are bits 15:8 and 7:0 of the word. -/
theorem crcWordFeedsHighByteFirst : Obligations.CrcWordFeedsHighByteFirst := by
  refine ⟨fun _ => rfl, execCrcWord_eq, fun w s hc => ?_⟩
  have hexec := execCrcWord_eq (w.extractLsb 15 0) s
  rw [wordBytes_extractLsb] at hexec
  exact issue_of_code_no_range (o := .crcWord) hc rfl (by simp [Opcode.format, Format.reservedClear]) hexec

/-- Settles O25: `crc.final` has no operand either, and leaves ACC as it was. -/
theorem crcFinalComplements : Obligations.CrcFinalComplements :=
  ⟨rfl, execCrcFinal_eq, fun w s hc =>
    issue_of_code_no_range (o := .crcFinal) hc rfl (by simp [Opcode.format, Format.reservedClear]) (execCrcFinal_eq s)⟩

/-! ## A run of the CRC operations (R67) -/

/-- A legal operation other than `crc.init` leaves in ACC the fold over the bytes that it feeds. -/
theorem exec_acc_eq_crcFold {i : Instr} {s t : State} (hi : i ≠ .crcInit) (h : exec i s = .next t) :
    t.acc = crcFold s.acc (fedByInstr i) := by
  obtain ⟨hkeep, _⟩ := eachRegisterHasItsWriters i s t h
  cases i with
  | crcInit => exact absurd rfl hi
  | crcByte _ | crcWord _ =>
    cases h
    rfl
  | _ => exact hkeep rfl

/-- The same for a word, which feeds no byte if it is illegal. -/
theorem issue_acc_eq_crcFold {w : OpWord} {s t : State} (hw : decode w ≠ .legal .crcInit) (h : issue w s = .next t) :
    t.acc = crcFold s.acc (fedByWord w) := by
  unfold fedByWord
  cases hd : decode w with
  | legal i => exact exec_acc_eq_crcFold (fun hi => hw (hi ▸ hd)) ((issue_legal hd s).symm.trans h)
  | illegal c =>
    cases (issue_illegal hd s).symm.trans h
    rfl

/-- The same over a run of words, which has a last state. -/
theorem issueAll_acc_eq_crcFold {ws : List OpWord} (hws : ∀ w ∈ ws, decode w ≠ .legal .crcInit) (s : State) :
    ∃ t, issueAll ws s = .next t ∧ t.acc = crcFold s.acc (fedBytes ws) := by
  induction ws generalizing s with
  | nil => exact ⟨s, rfl, rfl⟩
  | cons w ws ih =>
    obtain ⟨hw, hws⟩ := List.forall_mem_cons.1 hws
    obtain ⟨u, hu⟩ := issue_total w s
    obtain ⟨t, ht, hacc⟩ := ih hws u
    refine ⟨t, (issueAll_cons_of_issue ws hu).trans ht, ?_⟩
    rw [hacc, issue_acc_eq_crcFold hw hu, ← crcFold_append, fedBytes, fedBytes, List.flatMap_cons]

/-- Both starts of a run leave the seed in ACC (R28, R63). -/
theorem acc_eq_crcSeed_of_start {s : State}
    (h : SameRegisters s State.reset ∨ ∃ s₀, issue 0x00000000#32 s₀ = .next s) : s.acc = crcSeed := by
  rcases h with h | ⟨s₀, h⟩
  · exact congrArg Outputs.acc h
  · cases (issue_encode (i := .crcInit) rfl s₀).symm.trans h
    rfl

/-- Settles O27: the run folds the step from the seed, and the final word complements what it leaves. -/
theorem crcRunComputesCrcEight : Obligations.CrcRunComputesCrcEight := by
  intro s ws hstart hws
  obtain ⟨t, ht, hacc⟩ := issueAll_acc_eq_crcFold hws s
  rw [acc_eq_crcSeed_of_start hstart] at hacc
  have hfinal := (issue_encode (i := .crcFinal) rfl t).trans (execCrcFinal_eq t)
  rw [hacc] at hfinal
  exact ⟨t, _, ht, hacc, hfinal, rfl⟩

/-! ## The bounds of the results -/

/-- A byte widened to 16 bits is at most 0x00FF. -/
theorem byte_setWidth_toNat_le (b : Byte) : (b.setWidth 16).toNat ≤ 0xFF := by
  rw [BitVec.toNat_setWidth_of_le (by decide)]
  exact Nat.le_of_lt_succ b.isLt

/-- Bits 14:4 shifted down are an 11-bit number (R83). -/
theorem rangeField_toNat_le (d : DataWord) : (rangeField d).toNat ≤ 2047 := by
  have hmask : d.toNat &&& 0x7FF0 ≤ 0x7FF0 := Nat.and_le_right
  have hdiv : (rangeField d).toNat = (d.toNat &&& 0x7FF0) / 2 ^ 4 := Nat.shiftRight_eq_div_pow _ _
  omega

/-- Bits 15:14 are a 2-bit number (R85). -/
theorem firField_toNat_le (d : DataWord) : (firField d).toNat ≤ 3 := by
  rw [firField, BitVec.toNat_setWidth_of_le (by decide)]
  exact Nat.le_of_lt_succ (d.extractLsb 15 14).isLt

/-- `ext.pred`'s constant is one of two (R87). -/
theorem predConstant_eq_two_or_three (d : DataWord) : predConstant d = 2#16 ∨ predConstant d = 3#16 := by
  unfold predConstant
  split
  · exact .inr rfl
  · exact .inl rfl

/-- Settles O52: each operation writes a value of its kind to RESULT. -/
theorem resultBounds : Obligations.ResultBounds := by
  refine ⟨fun s t h => ?_, fun d s t h => ?_, fun d s t h => ?_, fun d s t h => ?_⟩ <;> cases h
  · exact byte_setWidth_toNat_le (crcComplement s.acc)
  · exact rangeField_toNat_le d
  · exact firField_toNat_le d
  · exact predConstant_eq_two_or_three d

end Sys2Proof.Machine

/-! SUPPORT. The proofs of the family 41_safety.md: the code and the recovery request that `safety.check` leaves (R68), the bits of
the safety word that it does not test (R69), and the tests that come before the CRC's (R71). -/

namespace Sys2Proof.Machine

open Sys2Proof.Safety

/-! ## The effect of a check (R68) -/

/-- The code of the model's outcome is the one that R68's pseudocode computes. -/
theorem outcomeCode_checkOutcome (a : Byte) (d : DataWord) :
    outcomeCode (checkOutcome (crcComplement a) (unpackSafety d)) = checkCode a d := by
  have hsys : (unpackSafety d).sysOk = 0#1 ↔ d.getLsbD 14 = false := extractLsb_bit_eq_zero_iff d 14
  have hif : (unpackSafety d).ifOk = 0#1 ↔ d.getLsbD 13 = false := extractLsb_bit_eq_zero_iff d 13
  have hangle : (unpackSafety d).angleOk = 0#1 ↔ d.getLsbD 12 = false := extractLsb_bit_eq_zero_iff d 12
  have hcrc : crcComplement a = (unpackSafety d).crc ↔ ~~~a = d.extractLsb 7 0 := Iff.rfl
  simp only [checkOutcome, checkCode, hsys, hif, hangle, hcrc, apply_ite outcomeCode]
  rfl

/-- The recovery request depends on the outcome's code only: it is 1 for CRC_ERROR's (R19). -/
theorem recoveryRequest_eq_ite (o : ErrorOutcome) : recoveryRequest o = if outcomeCode o = 4#3 then 1#1 else 0#1 := by
  cases o <;> rfl

/-- The whole effect of `safety.check`, with OUTCOME's code as R68 writes it. -/
theorem execSafetyCheck_eq_checkCode (d : DataWord) (s : State) :
    exec (.safetyCheck d) s = .next
      { s with outcome := checkCode s.acc d, recov := if checkCode s.acc d = 4#3 then 1#1 else 0#1 } := by
  rw [← outcomeCode_checkOutcome, ← recoveryRequest_eq_ite]
  exact execSafetyCheck_eq d s

/-- Settles O28: every data word is a legal operand, so only the reserved bits decide. -/
theorem safetyCheckOutcome : Obligations.SafetyCheckOutcome :=
  ⟨fun _ => rfl, execSafetyCheck_eq_checkCode, fun w s hc =>
    issue_of_code_no_range (o := .safetyCheck) hc rfl (by simp [Opcode.format, Format.reservedClear])
      (execSafetyCheck_eq_checkCode _ s)⟩

/-! ## The bits that a check does not test (R69) -/

/-- Words that agree under a mask agree in each bit of the mask. -/
theorem getLsbD_eq_of_and_mask_eq {n k : Nat} {d e m : BitVec n} (h : d &&& m = e &&& m) (hm : m.getLsbD k = true) :
    d.getLsbD k = e.getLsbD k := by
  have hk := congrArg (·.getLsbD k) h
  simpa [hm] using hk

/-- The code depends on bits 14, 13, 12 and 7:0 of the safety word only. -/
theorem checkCode_eq_of_testedBits {d e : DataWord} (h : d &&& 0x70FF#16 = e &&& 0x70FF#16) (a : Byte) :
    checkCode a d = checkCode a e := by
  have hcrc : d.extractLsb 7 0 = e.extractLsb 7 0 := by
    have hmask : ∀ k < 8, (0x70FF#16).getLsbD k = true := by decide
    apply BitVec.eq_of_getLsbD_eq
    intro k hk
    simp [getLsbD_eq_of_and_mask_eq h (hmask k hk)]
  rw [checkCode, checkCode, getLsbD_eq_of_and_mask_eq h (k := 14) rfl, getLsbD_eq_of_and_mask_eq h (k := 13) rfl,
    getLsbD_eq_of_and_mask_eq h (k := 12) rfl, hcrc]

/-- Settles O29: the effect depends on the safety word through the code only. -/
theorem safetyCheckIgnoresUntestedBits : Obligations.SafetyCheckIgnoresUntestedBits := by
  intro d e s h
  rw [execSafetyCheck_eq_checkCode, execSafetyCheck_eq_checkCode, checkCode_eq_of_testedBits h]

/-! ## The status tests come before the CRC's (R71) -/

/-- A word that misses a bit of the status mask has bit 14, 13 or 12 clear. -/
theorem statusBit_clear_of_and_mask_ne {d : DataWord} (h : d &&& 0x7000#16 ≠ 0x7000#16) :
    d.getLsbD 14 = false ∨ d.getLsbD 13 = false ∨ d.getLsbD 12 = false := by
  have hmask : ∀ k < 16, (0x7000#16).getLsbD k = true → k = 14 ∨ k = 13 ∨ k = 12 := by decide
  by_contra hset
  simp only [not_or, Bool.not_eq_false] at hset
  obtain ⟨hsys, hif, hangle⟩ := hset
  refine h (BitVec.eq_of_getLsbD_eq fun k hk => ?_)
  rw [BitVec.getLsbD_and, Bool.and_eq_right_iff_imp]
  intro hm
  obtain rfl | rfl | rfl := hmask k hk hm <;> assumption

/-- With a status bit clear the code is the same for every ACC, and it is neither OK's nor CRC_ERROR's. -/
theorem checkCode_of_statusFailure {d : DataWord} (h : d &&& 0x7000#16 ≠ 0x7000#16) :
    ∃ c, c ≠ 0#3 ∧ c ≠ 4#3 ∧ ∀ a, checkCode a d = c := by
  by_cases hsys : d.getLsbD 14 = false
  · exact ⟨1#3, by decide, by decide, fun a => if_pos hsys⟩
  by_cases hif : d.getLsbD 13 = false
  · exact ⟨2#3, by decide, by decide, fun a => by rw [checkCode, if_neg hsys, if_pos hif]⟩
  · have hangle : d.getLsbD 12 = false := ((statusBit_clear_of_and_mask_ne h).resolve_left hsys).resolve_left hif
    exact ⟨3#3, by decide, by decide, fun a => by rw [checkCode, if_neg hsys, if_neg hif, if_pos hangle]⟩

/-- Settles O30: the CRC's test is not reached, so both checks leave the one code. -/
theorem statusFailureShortCircuitsCrc : Obligations.StatusFailureShortCircuitsCrc := by
  intro d a s t u h ht hu
  obtain ⟨c, hok, hcrc, hcode⟩ := checkCode_of_statusFailure h
  rw [execSafetyCheck_eq_checkCode, hcode] at ht hu
  cases ht
  cases hu
  exact ⟨rfl, if_neg hcrc, if_neg hcrc, hok, hcrc⟩

end Sys2Proof.Machine

/-! SUPPORT. The proofs of the family 42_command.md: the command that `enc.cmd` packs (R73), the constants of `enc.named` (R47, R75),
and the read-data gate (R77). -/

namespace Sys2Proof.Machine

open Sys2Proof.Safety

/-! ## The packed command (R73) -/

/-- The shifted fields do not overlap, so their disjunction is their concatenation (R46). -/
theorem packCommand_eq_append (c : Command) : packCommand c = c.rw ++ c.access ++ c.upd ++ c.addr ++ c.nd := by
  have h : (c.rw ++ c.access ++ c.upd ++ c.addr ++ c.nd).setWidth 16 = packCommand c := by
    simp only [packCommand, BitVec.setWidth_append_eq_shiftLeft_setWidth_or, BitVec.shiftLeft_or_distrib,
      ← BitVec.shiftLeft_add]
  exact h.symm.trans (BitVec.setWidth_eq _)

/-- The whole effect of `enc.cmd`, with RESULT as R73 writes it. -/
theorem execEncCmd_eq_append (rw : BitVec 1) (access : BitVec 4) (upd : BitVec 1) (addr : BitVec 6) (nd : BitVec 4)
    (s : State) :
    exec (.encCmd rw access upd addr nd) s =
      .next { s with result := rw ++ access ++ upd ++ addr ++ nd, recov := 0#1 } := by
  rw [← packCommand_eq_append ⟨rw, access, upd, addr, nd⟩]
  exact execEncCmd_eq rw access upd addr nd s

/-- The operands of an `enc.cmd` word stand side by side, and are together its bits 27:12 (R43). -/
theorem encCmd_operands_append (w : OpWord) :
    w.extractLsb 27 27 ++ w.extractLsb 26 23 ++ w.extractLsb 22 22 ++ w.extractLsb 21 16 ++ w.extractLsb 15 12 =
      w.extractLsb 27 12 := by
  have hjoin (start₂ len₂ start₁ len₁ : Nat) (h : start₂ = start₁ + len₁) :
      w.extractLsb' start₂ len₂ ++ w.extractLsb' start₁ len₁ = w.extractLsb' start₁ (len₂ + len₁) :=
    BitVec.extractLsb'_append_extractLsb'_eq_extractLsb' h
  calc w.extractLsb' 27 1 ++ w.extractLsb' 23 4 ++ w.extractLsb' 22 1 ++ w.extractLsb' 16 6 ++ w.extractLsb' 12 4
    _ = w.extractLsb' 12 16 := by rw [hjoin 27 1 23 4 rfl, hjoin 23 5 22 1 rfl, hjoin 22 6 16 6 rfl, hjoin 16 12 12 4 rfl]

/-- Settles O32: every value of every field is legal, so only the reserved bits decide. -/
theorem encCmdPacksFields : Obligations.EncCmdPacksFields := by
  refine ⟨fun _ _ _ _ _ => rfl, execEncCmd_eq_append, fun w s hc => ?_⟩
  rw [← encCmd_operands_append]
  exact issue_of_code_no_range (o := .encCmd) hc rfl (by simp [Opcode.format, Format.reservedClear])
    (execEncCmd_eq_append _ _ _ _ _ s)

/-! ## The named constants (R47, R75) -/

/-- A selector of 0 to 10 is a named command's own. -/
theorem exists_namedSel_eq {sel : BitVec 4} (h : sel.toNat ≤ 10) : ∃ n, namedSel n = sel := by
  obtain ⟨n, hn⟩ := namedOfSel_eq_some h
  exact ⟨n, by simpa using List.find?_some hn⟩

/-- A named command's constant stands in the table at the command's selector. -/
theorem namedTable_getD_namedSel (n : NamedCommand) : namedTable.getD (namedSel n).toNat 0#16 = namedValue n := by
  cases n <;> rfl

/-- The whole effect of `enc.named` with a selector in range. -/
theorem execEncNamed_eq_namedTable {sel : BitVec 4} (h : sel.toNat ≤ 10) (s : State) :
    exec (.encNamed sel) s = .next { s with result := namedTable.getD sel.toNat 0#16, recov := 0#1 } := by
  obtain ⟨n, rfl⟩ := exists_namedSel_eq h
  rw [namedTable_getD_namedSel]
  exact execEncNamed_eq n s

/-- The whole effect of `enc.named` with a selector out of range. -/
theorem execEncNamed_eq_afterIllegal {sel : BitVec 4} (h : 10 < sel.toNat) (s : State) :
    exec (.encNamed sel) s = .next (afterIllegal 3#3 s) :=
  execEncNamed_illegal h s

/-- With a reserved bit set, a word has R99's effect with cause 2 (R53 test 2). -/
theorem issue_of_reservedSet {w : OpWord} {o : Opcode} (hc : opcField w = o.code)
    (hr : o.format.reservedClear w = false) (s : State) : issue w s = .next (afterIllegal 2#3 s) := by
  rw [issue_of_code hc, hr]
  rfl

/-- With no reserved bit set, a word does what its operation does with the operands read, be they legal or not: the operation
raises the cause that the decoder finds (R53 tests 3 and 4). -/
theorem issue_of_reservedClear {w : OpWord} {o : Opcode} (hc : opcField w = o.code)
    (hr : o.format.reservedClear w = true) (s : State) : issue w s = exec (readOperands o w) s := by
  rw [issue_of_code hc, if_pos hr]
  cases hw : (readOperands o w).wellFormed with
  | true => rw [(rangeCause_eq_none _).2 hw]
  | false =>
    obtain ⟨c, hcause, he⟩ := exec_ill_formed _ s hw
    rw [hcause, he]

/-- Settles O33: the reserved bits decide first, and then the selector's range. -/
theorem encNamedGivesConstant : Obligations.EncNamedGivesConstant := by
  refine ⟨fun _ => rfl, fun _ s h => execEncNamed_eq_namedTable h s, fun _ s h => execEncNamed_eq_afterIllegal h s,
    fun w s hc => ?_⟩
  split
  next hr => exact issue_of_reservedSet (o := .encNamed) hc (beq_eq_false_iff_ne.2 hr) s
  next hr =>
    rw [issue_of_reservedClear (o := .encNamed) hc (beq_iff_eq.2 (not_not.1 hr))]
    split
    next hsel => exact execEncNamed_eq_afterIllegal hsel s
    next hsel => exact execEncNamed_eq_namedTable (not_lt.1 hsel) s

/-! ## The read-data gate (R77) -/

/-- Settles O35: every data word is a legal operand, so only the reserved bits decide. -/
theorem dataGateZeroesUnlessOk : Obligations.DataGateZeroesUnlessOk :=
  ⟨fun _ => rfl, execDataGate_eq, fun w s hc =>
    issue_of_code_no_range (o := .dataGate) hc rfl (by simp [Opcode.format, Format.reservedClear]) (execDataGate_eq _ s)⟩

end Sys2Proof.Machine

/-! SUPPORT. The proofs of the family 43_decode.md: the signed fields (R79 to R82), the configuration-field extractors (R83 to
R87), the bit slice (R89), and the extractors as slices (R88). -/

namespace Sys2Proof.Machine

open Sys2Proof.Safety

/-! ## A word with a data operand (R42) -/

/-- A word whose operation has no range condition and reads one field of its data operand: the field is the word's own, and
only the reserved bits 27:16 can make the word illegal (R53). -/
theorem issue_of_data_field {w : OpWord} {o : Opcode} {s : State} {hi lo : Nat} (f : BitVec (hi - lo + 1) → DataWord)
    (hc : opcField w = o.code) (hf : o.format = .D) (hr : (readOperands o w).rangeCause = none) (hle : lo ≤ hi)
    (hhi : hi ≤ 15)
    (he : exec (readOperands o w) s =
      .next { s with result := f ((w.extractLsb 15 0).extractLsb hi lo), recov := 0#1 }) :
    issue w s = .next
      (if w.extractLsb 27 16 ≠ 0#12 then afterIllegal 2#3 s
       else { s with result := f (w.extractLsb hi lo), recov := 0#1 }) := by
  have hp : o.format.reservedClear w = true ↔ ¬w.extractLsb 27 16 ≠ 0#12 := by
    rw [hf, not_not]
    exact beq_iff_eq
  rw [extractLsb_extractLsb_low w hhi hle] at he
  exact issue_of_code_no_range hc hr hp he

/-! ## The signed fields (R50, R51) -/

/-- The word under a mask of its bits `hi`:0 is the field of those bits, widened with zeros. -/
theorem and_lowMask_eq_setWidth {n hi : Nat} (d m : BitVec n) (hm : ∀ k < n, m.getLsbD k = decide (k ≤ hi)) :
    d &&& m = (d.extractLsb hi 0).setWidth n := by
  apply BitVec.eq_of_getLsbD_eq
  intro k hk
  rw [BitVec.getLsbD_and, hm k hk, Bool.and_comm]
  simp [hk]

/-- The sign bit of a field is its top bit. -/
theorem extractLsb_low_msb {n : Nat} (d : BitVec n) (hi : Nat) : (d.extractLsb hi 0).msb = d.getLsbD hi := by
  simp [BitVec.msb_eq_getLsbD_last]

/-- Masking the field off and subtracting 2^(hi + 1) when its top bit is set computes the field's two's complement value. -/
theorem maskedField_eq_toInt {n hi : Nat} (d m : BitVec n) (hm : ∀ k < n, m.getLsbD k = decide (k ≤ hi)) (hhi : hi < n) :
    (if (d &&& m).getLsbD hi then ((d &&& m).toNat : Int) - 2 ^ (hi + 1) else ((d &&& m).toNat : Int)) =
      (d.extractLsb hi 0).toInt := by
  have hbit : (d &&& m).getLsbD hi = (d.extractLsb hi 0).msb := by
    rw [extractLsb_low_msb, BitVec.getLsbD_and, hm hi hhi, decide_eq_true le_rfl, Bool.and_true]
  have hnat : (d &&& m).toNat = (d.extractLsb hi 0).toNat := by
    rw [and_lowMask_eq_setWidth d m hm, BitVec.toNat_setWidth_of_le (by omega)]
  rw [hbit, hnat, BitVec.toInt_eq_msb_cond]
  norm_cast

/-- The source's value of the 15-bit field is D[14:0] read in two's complement (R79). -/
theorem decode15_eq_toInt (d : DataWord) : decode15 d = (d.extractLsb 14 0).toInt :=
  maskedField_eq_toInt d 0x7FFF#16 (by decide) (by decide)

/-- The source's value of the 9-bit field is D[8:0] read in two's complement (R81). -/
theorem decode9_eq_toInt (d : DataWord) : decode9 d = (d.extractLsb 8 0).toInt :=
  maskedField_eq_toInt d 0x01FF#16 (by decide) (by decide)

/-- The whole effect of `dec15`, with RESULT as R79 writes it: a sign extension is the field's value in 16 bits. -/
theorem execDec15_eq_signExtend (d : DataWord) (s : State) :
    exec (.dec15 d) s = .next { s with result := (d.extractLsb 14 0).signExtend 16, recov := 0#1 } := by
  rw [BitVec.signExtend, ← decode15_eq_toInt]
  exact execDec15_eq d s

/-- The whole effect of `dec9`, with RESULT as R81 writes it. -/
theorem execDec9_eq_signExtend (d : DataWord) (s : State) :
    exec (.dec9 d) s = .next { s with result := (d.extractLsb 8 0).signExtend 16, recov := 0#1 } := by
  rw [BitVec.signExtend, ← decode9_eq_toInt]
  exact execDec9_eq d s

/-- Settles O38: every data word is a legal operand, so only the reserved bits decide. -/
theorem decFifteenSignExtends : Obligations.DecFifteenSignExtends :=
  ⟨fun _ => rfl, execDec15_eq_signExtend, fun _ s hc =>
    issue_of_data_field (o := .dec15) (·.signExtend 16) hc rfl rfl (by decide) (by decide) (execDec15_eq_signExtend _ s)⟩

/-- Settles O40: every data word is a legal operand, so only the reserved bits decide. -/
theorem decNineSignExtends : Obligations.DecNineSignExtends :=
  ⟨fun _ => rfl, execDec9_eq_signExtend, fun _ s hc =>
    issue_of_data_field (o := .dec9) (·.signExtend 16) hc rfl rfl (by decide) (by decide) (execDec9_eq_signExtend _ s)⟩

/-! ## The range of a signed field, and the bits it copies (R80, R82) -/

/-- A field of `hi + 1` bits keeps its value under sign extension, which lies in the field's two's complement range. -/
theorem signExtend_low_toInt_bounds {n hi v : Nat} (d : BitVec n) (h : hi < v) :
    -2 ^ hi ≤ ((d.extractLsb hi 0).signExtend v).toInt ∧ ((d.extractLsb hi 0).signExtend v).toInt < 2 ^ hi := by
  rw [BitVec.toInt_signExtend_of_le h]
  exact ⟨BitVec.le_toInt _, BitVec.toInt_lt⟩

/-- From the field's top bit upwards a sign extension copies that bit. -/
theorem signExtend_low_getLsbD {n hi v k : Nat} (d : BitVec n) (hk : hi ≤ k) (hv : k < v) :
    ((d.extractLsb hi 0).signExtend v).getLsbD k = d.getLsbD hi := by
  rw [BitVec.getLsbD_signExtend, decide_eq_true hv, Bool.true_and, extractLsb_low_msb]
  split
  next h =>
    obtain rfl : k = hi := by omega
    simp
  next => rfl

/-- Settles O39: RESULT is the sign extension of D[14:0], and inverting bit 15 leaves that field as it was. -/
theorem decFifteenProperties : Obligations.DecFifteenProperties := by
  refine ⟨fun d s t h => ?_, by decide, by decide⟩
  have hflip : (d ^^^ 0x8000#16).extractLsb 14 0 = d.extractLsb 14 0 := by
    rw [BitVec.extractLsb_xor]
    exact BitVec.xor_zero
  rw [execDec15_eq_signExtend, hflip, ← execDec15_eq_signExtend]
  cases (execDec15_eq_signExtend d s).symm.trans h
  obtain ⟨hmin, hmax⟩ := signExtend_low_toInt_bounds (v := 16) (hi := 14) d (by decide)
  exact ⟨hmin, Int.le_of_lt_add_one hmax, h, rfl, signExtend_low_getLsbD d (by decide) (by decide),
    signExtend_low_getLsbD d (by decide) (by decide)⟩

/-- Settles O41: RESULT is the sign extension of D[8:0], and clearing bits 15:9 leaves that field as it was. -/
theorem decNineProperties : Obligations.DecNineProperties := by
  refine ⟨fun d s t h => ?_, by decide, by decide⟩
  have hclear : (d &&& 0x01FF#16).extractLsb 8 0 = d.extractLsb 8 0 := by
    rw [BitVec.extractLsb_and]
    exact BitVec.and_allOnes
  rw [execDec9_eq_signExtend, hclear, ← execDec9_eq_signExtend]
  cases (execDec9_eq_signExtend d s).symm.trans h
  obtain ⟨hmin, hmax⟩ := signExtend_low_toInt_bounds (v := 16) (hi := 8) d (by decide)
  exact ⟨hmin, Int.le_of_lt_add_one hmax, h, fun k hlo hhi => signExtend_low_getLsbD d hlo (by omega)⟩

/-! ## The configuration-field extractors (R83, R85, R87) -/

/-- Masking bits 14:4 and shifting right by 4 reads the field of those bits. -/
theorem rangeField_eq_extractLsb (d : DataWord) : rangeField d = (d.extractLsb 14 4).setWidth 16 := by
  have hmask : ∀ k < 16, (0x7FF0#16).getLsbD (4 + k) = decide (k < 11) := by decide
  apply BitVec.eq_of_getLsbD_eq
  intro k hk
  simp [rangeField, hmask k hk, hk, Nat.lt_succ_iff, Bool.and_comm]

/-- `ext.pred`'s test reads the one-bit field D[2]. -/
theorem predConstant_eq_ite (d : DataWord) :
    predConstant d = if d.extractLsb 2 2 = 1#1 then 0x0003#16 else 0x0002#16 := by
  have hbit : d.extractLsb 2 2 = 1#1 ↔ d.getLsbD 2 = true := by
    have hone : ∀ b : BitVec 1, b = 1#1 ↔ ¬b = 0#1 := by decide
    rw [hone, extractLsb_bit_eq_zero_iff, Bool.not_eq_false]
  simp only [predConstant, hbit]

/-- The whole effect of `ext.range`, with RESULT as R83 writes it. -/
theorem execExtRange_eq_extractLsb (d : DataWord) (s : State) :
    exec (.extRange d) s = .next { s with result := (d.extractLsb 14 4).setWidth 16, recov := 0#1 } := by
  rw [← rangeField_eq_extractLsb]
  exact execExtRange_eq d s

/-- The whole effect of `ext.pred`, with RESULT as R87 writes it. -/
theorem execExtPred_eq_ite (d : DataWord) (s : State) :
    exec (.extPred d) s =
      .next { s with result := if d.extractLsb 2 2 = 1#1 then 0x0003#16 else 0x0002#16, recov := 0#1 } := by
  rw [← predConstant_eq_ite]
  exact execExtPred_eq d s

/-- Settles O42: the operand's field is bits 14:4 of the word, and only the reserved bits decide. -/
theorem extRangeExtracts : Obligations.ExtRangeExtracts :=
  ⟨fun _ => rfl, execExtRange_eq_extractLsb, fun _ s hc =>
    issue_of_data_field (o := .extRange) (·.setWidth 16) hc rfl rfl (by decide) (by decide)
      (execExtRange_eq_extractLsb _ s)⟩

/-- Settles O43: the operand's field is bits 15:14 of the word, and only the reserved bits decide. -/
theorem extFirExtracts : Obligations.ExtFirExtracts :=
  ⟨fun _ => rfl, execExtFir_eq, fun _ s hc =>
    issue_of_data_field (o := .extFir) (·.setWidth 16) hc rfl rfl (by decide) (by decide) (execExtFir_eq _ s)⟩

/-- Settles O44: the bit tested is bit 2 of the word, and only the reserved bits decide. -/
theorem extPredGivesDivisor : Obligations.ExtPredGivesDivisor :=
  ⟨fun _ => rfl, execExtPred_eq_ite, fun _ s hc =>
    issue_of_data_field (o := .extPred) (hi := 2) (lo := 2) (fun b => if b = 1#1 then 0x0003#16 else 0x0002#16) hc rfl rfl
      (by decide) (by decide) (execExtPred_eq_ite _ s)⟩

/-! ## The bit slice (R88, R89) -/

/-- The whole effect of `bslice` with LO ≤ HI, with RESULT as R89 writes it. -/
theorem execBslice_eq_extractLsb {hi lo : BitVec 4} (h : lo.toNat ≤ hi.toNat) (d : DataWord) (s : State) :
    exec (.bslice hi lo d) s =
      .next { s with result := (d.extractLsb hi.toNat lo.toNat).setWidth 16, recov := 0#1 } :=
  execBslice_eq h d s

/-- The whole effect of `bslice` with LO > HI. -/
theorem execBslice_eq_afterIllegal {hi lo : BitVec 4} (h : hi.toNat < lo.toNat) (d : DataWord) (s : State) :
    exec (.bslice hi lo d) s = .next (afterIllegal 4#3 s) :=
  execBslice_illegal h d s

/-- Settles O45: the reserved bits decide first, and then the order of the slice's ends. -/
theorem bsliceExtracts : Obligations.BsliceExtracts := by
  refine ⟨fun _ _ _ => rfl, fun _ _ d s h => execBslice_eq_extractLsb h d s,
    fun _ _ d s h => execBslice_eq_afterIllegal h d s, fun w s hc => ?_⟩
  split
  next hr => exact issue_of_reservedSet (o := .bslice) hc (beq_eq_false_iff_ne.2 hr) s
  next hr =>
    rw [issue_of_reservedClear (o := .bslice) hc (beq_iff_eq.2 (not_not.1 hr))]
    split
    next h => exact execBslice_eq_afterIllegal h _ s
    next h => exact execBslice_eq_extractLsb (not_lt.1 h) _ s

/-- Settles O47: each extractor reads the field of its slice, and `ext.pred`'s constant is 2 plus its one bit. -/
theorem extractorsAreSlices : Obligations.ExtractorsAreSlices := by
  refine ⟨fun d s => ?_, fun d s => ?_, fun d s t u ht hu => ?_⟩
  · rw [execExtRange_eq_extractLsb]
    exact (execBslice_eq_extractLsb (hi := 14#4) (lo := 4#4) (by decide) d s).symm
  · exact (execExtFir_eq d s).trans (execBslice_eq_extractLsb (hi := 15#4) (lo := 14#4) (by decide) d s).symm
  · have hsum : ∀ b : BitVec 1, (if b = 1#1 then 0x0003#16 else 0x0002#16) = 2#16 + b.setWidth 16 := by decide
    cases (execExtPred_eq_ite d s).symm.trans ht
    cases (execBslice_eq_extractLsb (hi := 2#4) (lo := 2#4) (by decide) d s).symm.trans hu
    exact hsum (d.extractLsb 2 2)

end Sys2Proof.Machine

/-! SUPPORT. The proof of the family 60_exceptions.md's last statement: the effect of an illegal word (R99). -/

namespace Sys2Proof.Machine

open Sys2Proof.Safety

/-- A run of one word is that word: every word has a next state (R10), from which no word is left to run. -/
theorem issueAll_singleton (w : OpWord) (s : State) : issueAll [w] s = issue w s := by
  obtain ⟨t, ht⟩ := issue_total w s
  calc issueAll [w] s
    _ = .next t := issueAll_cons_of_issue [] ht
    _ = issue w s := ht.symm

/-- An illegal word's whole effect is R99's, with the code of its cause. -/
theorem issue_illegal_eq_afterIllegal {w : OpWord} {c : IllegalCause} (hw : decode w = .illegal c) (s : State) :
    issue w s = .next (afterIllegal (causeCode c) s) := by
  rw [issue_illegal hw, raiseIllegal_eq_afterIllegal]

/-- Settles O14: an illegal word leaves R99's state, and a legal word after it executes from there. -/
theorem illegalWordEffect : Obligations.IllegalWordEffect := by
  intro w c s hw
  have heffect : issue w s = .next (afterIllegal (causeCode c) s) := issue_illegal_eq_afterIllegal hw s
  refine ⟨heffect, fun v i hv => ?_⟩
  calc issueAll [w, v] s
    _ = issueAll [v] (afterIllegal (causeCode c) s) := issueAll_cons_of_issue [v] heffect
    _ = issue v (afterIllegal (causeCode c) s) := issueAll_singleton v _
    _ = exec i (afterIllegal (causeCode c) s) := issue_legal hv _

end Sys2Proof.Machine
